-- ==== Sys2Proof/Word.lean ====
section
/-! DEFINITION. The word types of the Modbus Frame Decoder: bytes of a frame, 16-bit frame fields, 32-bit register words
(spec/00_scope.md R10, R11, R12). -/

namespace Sys2Proof

/-- One frame or buffer byte (R10: every buffer element is one 8-bit byte). -/
abbrev Byte := BitVec 8

/-- A 16-bit frame field: a CRC or a TCP header field (R10). -/
abbrev Half := BitVec 16

/-- A 32-bit interface register or command word (R25, R68). -/
abbrev Word := BitVec 32

end Sys2Proof
end

