-- ==== Sys2Proof/Syntax.lean ====
section
/-! DEFINITION. What the machine's inputs and results look like: the three commands, the variants, the interface registers, the
decoded frame and its errors, host bus accesses and host programs (spec/30_encoding.md, spec/00_scope.md R16, R17). -/

namespace Sys2Proof

/-- The commands, one constructor per row of spec/opcode_table.json. A command word has no operand field (R68). -/
inductive Instr where
  | decodeRtu      -- DECODE.RTU, R97
  | decodeTcp      -- DECODE.TCP, R105
  | decodeRtuTcp   -- DECODE.RTUTCP, R114
  deriving DecidableEq, Repr

/-- The three wire variants that CMD.VARIANT can name (R26). Its fourth encoding, 3, is reserved and is never stored (R70). -/
inductive Variant where
  | rtu
  | tcp
  | rtuTcp
  deriving DecidableEq, Repr

/-- The seven interface registers (R25). -/
inductive Reg where
  | cmd
  | inLen
  | status
  | frame
  | dataLen
  | crc
  | param
  deriving DecidableEq, Repr

/-- The core function's success value (R16). -/
structure DecodedFrame where
  address      : Byte
  functionCode : Byte
  data         : List Byte
  crc          : Option Half
  deriving DecidableEq, Repr

/-- The core function's failure values, "exhaustive, no sub-kinds" (R17, R121). -/
inductive ErrorKind where
  | invalidLength
  | invalidFunctionCode
  | invalidCrc
  deriving DecidableEq, Repr

/-- What a decode ends in: exactly one `ok` or one `err` (R15, R22). -/
inductive DecodeResult where
  | ok (f : DecodedFrame)
  | err (k : ErrorKind)
  deriving DecidableEq, Repr

/-- A host bus access at a host address: `MemRead(addr, width)` or `MemWrite(addr, width, value)` (R14, R46, R84). -/
inductive Access where
  | read (width addr : Nat)
  | write (width addr : Nat) (value : Word)
  deriving DecidableEq, Repr

/-- The width in bytes of an access. -/
def Access.width : Access → Nat
  | .read w _ => w
  | .write w _ _ => w

/-- The host address of an access. -/
def Access.addr : Access → Nat
  | .read _ a => a
  | .write _ a _ => a

/-- What a line of a host program still has to do at the instance whose window starts at `base`: one bus transaction (R84), the two
pseudo-instructions whose expansion depends on the values read (R85), or a reset that the program names (R138, R147). -/
inductive HostOp where
  /-- one bus transaction -/
  | access (a : Access)
  /-- `wait`: `lw STATUS` again and again until bit 1 of the value read is 1 -/
  | wait (base : Nat)
  /-- `result`: `lw STATUS`, `lw FRAME`, `lw DATA_LEN`, `lw CRC`, then one `lb` for each payload byte -/
  | result (base : Nat)
  /-- the rest of `result` from its `lw DATA_LEN` on -/
  | resultTail (base : Nat)
  /-- the platform asserts reset of the instance -/
  | reset (base : Nat)
  deriving DecidableEq, Repr

/-- One pending piece of a host program: the number of its source line (R128), the host agent that carries it out (R67), and what
it does. -/
structure HostLine where
  line  : Nat
  agent : Nat
  op    : HostOp
  deriving DecidableEq, Repr

/-- A source line of a host program, as R84 and R85 write it; `off` is a block offset. -/
inductive SrcLine where
  | sw (off : Nat) (value : Word)
  | lw (off : Nat)
  | sb (off : Nat) (value : Byte)
  | lb (off : Nat)
  | decode (i : Instr)
  | frame (bytes : List Byte)
  | wait
  | result
  | reset
  deriving DecidableEq, Repr

/-- Which instance a host address belongs to (R46): the one followed, another one, or none. -/
inductive Place where
  | focus
  | peer (k : Nat)
  | nowhere
  deriving DecidableEq, Repr

/-- What a block offset names (R47): a register, or a byte of a buffer. -/
inductive Target where
  | reg (r : Reg)
  | inBuf (i : Nat)
  | dataBuf (i : Nat)
  deriving DecidableEq, Repr

end Sys2Proof
end

