-- ==== Sys2Proof/Decode.lean ====
section
/-! DEFINITION. The command word CMD32: decoding, total on all 32-bit words and refusing by name, and the encoder
(spec/30_encoding.md R68 to R70, spec/10_state.md R26). The bus has no byte-lane order (R58), so a command is a word and not a list of
bytes (log 20). -/

namespace Sys2Proof

/-- Why a word is no command. -/
inductive DecodeError where
  /-- R70: VARIANT = 3, or a bit of [31:2] set -/
  | reservedCommand
  deriving DecidableEq, Repr

/-- CMD.VARIANT, bits [1:0] (R68). -/
def variantField (w : Word) : BitVec 2 := w.extractLsb' 0 2

/-- The reserved bits [31:2] (R68). -/
def reservedField (w : Word) : BitVec 30 := w.extractLsb' 2 30

/-- R69, R70: the command that a word written to CMD selects. -/
def decode (w : Word) : Except DecodeError Instr :=
  if reservedField w ≠ 0 then .error .reservedCommand
  else match (variantField w).toNat with
    | 0 => .ok .decodeRtu
    | 1 => .ok .decodeTcp
    | 2 => .ok .decodeRtuTcp
    | _ => .error .reservedCommand

/-- R26: the number of a variant in CMD.VARIANT. -/
def Variant.number : Variant → BitVec 2
  | .rtu => 0
  | .tcp => 1
  | .rtuTcp => 2

/-- R69: the variant that a command selects. -/
def Instr.variant : Instr → Variant
  | .decodeRtu => .rtu
  | .decodeTcp => .tcp
  | .decodeRtuTcp => .rtuTcp

/-- R68: the word of a command, reserved bits 0 above VARIANT. -/
def encode (i : Instr) : Word := (0 : BitVec 30) ++ i.variant.number

/-- The command that the decoder reads from a table word: bit 0 of `w` is bit 0 of the one 32-bit word, and bits at `nbits` and
above are 0. -/
def decodeTableWord (nbits w : Nat) : Option Instr :=
  if 32 < nbits then none
  else match decode (BitVec.ofNat 32 (w % 2 ^ nbits)) with
    | .ok i => some i
    | .error .reservedCommand => none

end Sys2Proof
end

