-- ==== Sys2Proof/Machine/Flags.lean ====
section
/-! DEFINITION. The checks a decode makes and the flags it reports: FcValid, Crc16, STATUS.CODE and CRC.PRESENT
(spec/40_common.md R88, R89, R94; spec/10_state.md R35, R38). -/

namespace Sys2Proof.Machine

/-- `FcValid(x)`: 1 <= x <= 127 (R88). -/
def fcValid (x : Byte) : Bool := decide (1 ≤ x.toNat) && decide (x.toNat ≤ 127)

/-- One of the eight rounds of R89: shift right, and XOR 0xA001 when the bit shifted out is 1. -/
def crcRound (c : Half) : Half := if c.getLsbD 0 then (c >>> 1) ^^^ 0xA001 else c >>> 1

/-- R89: `crcRound` so many times. -/
def crcRounds : Nat → Half → Half
  | 0, c => c
  | k + 1, c => crcRounds k (crcRound c)

/-- R89: one byte enters the CRC register. -/
def crcByte (c : Half) (b : Byte) : Half := crcRounds 8 (c ^^^ b.setWidth 16)

/-- `Crc16(S)`: initial value 0xFFFF, no final XOR (R89). -/
def crc16 (s : List Byte) : Half := s.foldl crcByte 0xFFFF

/-- R35: the number of an error kind in STATUS.CODE. -/
def errorCode : ErrorKind → BitVec 2
  | .invalidLength => 1
  | .invalidFunctionCode => 2
  | .invalidCrc => 3

/-- CRC.VALUE for a decoded frame: the CRC, or 0 when it has none (R32, R94). -/
def crcValueOf (c : Option Half) : Half := c.getD 0

/-- CRC.PRESENT for a decoded frame: the option's tag (R32, R38, R94). -/
def crcPresentOf (c : Option Half) : Bool := c.isSome

end Sys2Proof.Machine
end

