-- ==== Sys2Proof/Machine/Operands.lean ====
section
/-! DEFINITION. How a decode reads the fields of its frame: single bytes, big-endian and little-endian 16-bit fields, and runs of
bytes (spec/00_scope.md R13, spec/30_encoding.md R76 to R79). -/

namespace Sys2Proof.Machine

/-- `B[i]` (R13, R76). Every use stands behind a length check (R87), so the 0 past the end is never read (log 21). -/
def byteAt (frame : List Byte) (i : Nat) : Byte := frame.getD i 0

/-- `be16(B, i)`: B[i] is the more significant byte (R77). -/
def be16 (frame : List Byte) (i : Nat) : Half :=
  (byteAt frame i).setWidth 16 * 256 + (byteAt frame (i + 1)).setWidth 16

/-- `le16(B, i)`: B[i] is the less significant byte (R78). -/
def le16 (frame : List Byte) (i : Nat) : Half :=
  (byteAt frame i).setWidth 16 + (byteAt frame (i + 1)).setWidth 16 * 256

/-- `B[a..b)`, the bytes at offsets a to b - 1 (R13, R79). -/
def bytesFromTo (frame : List Byte) (a b : Nat) : List Byte := (frame.drop a).take (b - a)

end Sys2Proof.Machine
end

