-- ==== Sys2Proof/Config.lean ====
section
/-! DEFINITION. What an implementation fixes (the parameters of spec/00_scope.md R9) and the free values, one for each kind of value
that the spec leaves unspecified (R14 `draw`; spec/93_implementation_defined.md I10 to I13). -/

namespace Sys2Proof

/-- The parameters of one instance (R9, R43): fixed for its life. The fifth parameter of R9 that is not here, NUM_INSTANCES, is
one more than the number of peers in the state. -/
structure Config where
  /-- MAX_LEN: the capacity in bytes of IN_BUF and of DATA_BUF -/
  maxLen       : Nat
  /-- BASE: where the instance's window starts in the host's address space -/
  base         : Nat
  /-- HOST_ADDR_W: the width of a host address in bits -/
  hostAddrW    : Nat
  /-- STRICT_LENGTH: check the TCP header's length field (R91) -/
  strictLength : Bool
  /-- CHECK_CRC: check the CRC of RTU-framed frames (R90) -/
  checkCrc     : Bool
  deriving DecidableEq, Repr

/-- The parameters `State.reset` takes. STRICT_LENGTH and CHECK_CRC have the spec's defaults (R7); MAX_LEN is the size R9 suggests.
DESIGN CHOICE (log 2): MAX_LEN, BASE and HOST_ADDR_W are OPEN in the spec. Unsafe for a claim about `State.reset` alone; a claim
about every state holds for every parameter. -/
def Config.default : Config :=
  { maxLen := 260, base := 0, hostAddrW := 32, strictLength := false, checkCrc := false }

/-! The free values: constants with no body, applied to the counter `State.draws` (log 4). Safe: nothing constrains them. -/

/-- A byte of IN_BUF that has not been written, or of DATA_BUF that holds no defined value (R33, R40, R44). -/
opaque Config.freeByte : Nat → Byte

/-- STATUS.CODE while a decode is pending (R39). -/
opaque Config.freeCode : Nat → BitVec 2

/-- FRAME.ADDRESS while a decode is pending (R39). -/
opaque Config.freeAddress : Nat → Byte

/-- FRAME.FUNCTION_CODE while a decode is pending (R39). -/
opaque Config.freeFunctionCode : Nat → Byte

/-- DATA_LEN.LEN while a decode is pending (R39). -/
opaque Config.freeDataLen : Nat → BitVec 13

/-- CRC.VALUE while a decode is pending (R39). -/
opaque Config.freeCrcValue : Nat → Half

/-- CRC.PRESENT while a decode is pending (R39). -/
opaque Config.freeCrcPresent : Nat → Bool

/-- How many events pass between an accepted command and its decoder step: some finite number, which the spec does not bound
(R145, I13; log 3). -/
opaque Config.freeDelay : Nat → Nat

end Sys2Proof
end

