-- ==== Sys2Proof/Machine/State.lean ====
section
/-! DEFINITION. The machine's state: everything spec/10_state.md gives an instance (R23), the other instances (R135), and the host
side that acts on them (R18, R84, R147), all as plain data. -/

namespace Sys2Proof.Machine

/-- The faults of R128. -/
inductive Fault where
  /-- A host write to CMD, IN_LEN or IN_BUF while STATUS.BUSY = 1 (R142). Raised by the commands (`startCommand`) and by host writes
  (`writeTarget`); the machine records it in FAULTS, changes no register or buffer, and goes on (R128, R148; log 8). Safe: a run
  with a recorded fault is not good (R147). -/
  | hostWriteWhileBusy
  deriving DecidableEq, Repr

/-- The refusals of R129. A refused host access sets REFUSED, changes no other state, returns no value, and the machine goes on
(R148; log 8). All are safe: a run in which REFUSED is set is not good (R147). -/
inductive Refusal where
  /-- an instruction without a meaning: none is left, so nothing raises it -/
  | notModelled (mnemonic : String)
  /-- an offset in a reserved range or in a window at or above MAX_LEN (R47, R50), or an address of no instance (log 11); raised by
  `targetOf` and `localAccess`; safe -/
  | unmapped
  /-- a register access that is not 4 bytes, a buffer access that is not 1 byte (R48, R49); raised by `targetOf`; safe -/
  | accessWidth
  /-- a 4-byte register access at an offset that is not a multiple of 4 (R48); raised by `targetOf`; safe -/
  | misaligned
  /-- a write to STATUS, FRAME, DATA_LEN, CRC, PARAM or DATA_BUF (R52, R53); raised by `writeTarget`; safe -/
  | readOnlyWrite
  /-- a CMD write of 3 or with a bit of [31:2] set (R70); raised by `writeCmd`; safe -/
  | reservedCommand
  /-- an IN_LEN write with a bit of [31:13] set or LEN > MAX_LEN (R27); raised by `writeInLen`; safe -/
  | lengthOutOfRange
  /-- an access by a second host agent (R67); raised by `accessVerdict`; safe -/
  | multipleHosts
  deriving DecidableEq, Repr

/-- An entry of FAULTS: the fault and the host program line that made it (R128). -/
structure FaultRecord where
  fault : Fault
  line  : Nat
  deriving DecidableEq, Repr

/-- A byte array: the bytes that hold a defined value, as (index, byte) pairs with rising indexes. An unlisted byte is unspecified:
a read of it is a free value (R44; log 13). -/
abbrev Memory := List Host.Cell

/-- One MFD instance (R23). Register fields are stored one by one; a register's reserved bits read 0 (R26 to R34), so they have no
storage. -/
structure Instance where
  /-- the parameters, fixed for the life of the instance (R9, R43; log 1) -/
  cfg          : Config
  /-- CMD.VARIANT, the variant of the last accepted command (R26) -/
  variant      : Variant
  /-- IN_LEN.LEN (R27) -/
  inLen        : BitVec 13
  /-- STATUS.BUSY (R28, R36) -/
  busy         : Bool
  /-- STATUS.VALID (R28, R37) -/
  valid        : Bool
  /-- STATUS.CODE (R28, R35) -/
  code         : BitVec 2
  /-- FRAME.ADDRESS (R29) -/
  address      : Byte
  /-- FRAME.FUNCTION_CODE (R29) -/
  functionCode : Byte
  /-- DATA_LEN.LEN (R31) -/
  dataLen      : BitVec 13
  /-- CRC.VALUE (R32) -/
  crcValue     : Half
  /-- CRC.PRESENT (R32, R38) -/
  crcPresent   : Bool
  /-- IN_BUF: the bytes the host has written since reset (R30, R44) -/
  inBuf        : Memory
  /-- DATA_BUF: the payload bytes of the last decode (R33) -/
  dataBuf      : Memory
  /-- FAULTS, a set: no entry twice (R45, R128) -/
  faults       : List FaultRecord
  /-- REFUSED (R45, R129) -/
  refused      : Bool
  /-- the values the host has read, oldest first: the run's observation (R147) -/
  reads        : List Word
  /-- the host agent that accesses this instance, once one has (R67; log 10) -/
  owner        : Option Nat
  /-- the model's own: how many more events pass before the pending decoder step (R145, I13; log 3) -/
  delay        : Nat
  deriving DecidableEq, Repr

/-- An instance at the start of a run (R44, R140): every register 0, the buffers unspecified, FAULTS empty, REFUSED false. -/
def Instance.initial (c : Config) : Instance :=
  { cfg := c, variant := .rtu, inLen := 0, busy := false, valid := false, code := 0, address := 0, functionCode := 0, dataLen := 0,
    crcValue := 0, crcPresent := false, inBuf := [], dataBuf := [], faults := [], refused := false, reads := [], owner := none,
    delay := 0 }

/-- The whole system: the instance that is followed, the others, and the host side. -/
structure State where
  /-- the instance that commands, and accesses to its window, act on (log 12) -/
  inst    : Instance
  /-- the other instances: NUM_INSTANCES is one more than their number (R9, R135) -/
  peers   : List Instance
  /-- the host accesses and platform resets still to come, in the order they take effect (R60, R84, R147; log 9) -/
  program : List HostLine
  /-- the number of the host program line in progress (R128) -/
  line    : Nat
  /-- the model's own: delays already chosen for the coming commands; none left means free ones (I13; log 3) -/
  delays  : List Nat
  /-- the model's own: the counter the free values are applied to (R14; log 4) -/
  draws   : Nat
  deriving DecidableEq, Repr

/-- R140: the initial state, one instance with the parameters of `Config.default` and an empty host program (log 2, log 9). -/
def State.reset : State :=
  { inst := Instance.initial Config.default, peers := [], program := [], line := 0, delays := [], draws := 0 }

end Sys2Proof.Machine
end

