-- ==== Sys2Proof/Machine/Ops.lean ====
section
/-! DEFINITION. The named operations over the state: byte arrays, register words and their reads, accepting a command, storing a
result (Commit), recording faults and refusals, reset, and the bookkeeping of events (spec/10_state.md, spec/20_memory.md,
spec/40_common.md R94, spec/60_exceptions.md R128, R129, spec/70_reset_and_hazards.md R138). The block takes no traps: a rejected frame
is a value that Commit stores (R124), and a broken interface rule is a record (R128, R129). -/

namespace Sys2Proof.Machine

/-! ### Byte arrays -/

/-- The byte at index `i`, or none where it is unspecified (R44). -/
def Memory.read : Memory → Nat → Option Byte
  | [], _ => none
  | c :: m, i => if i = c.1 then some c.2 else Memory.read m i

/-- The array with byte `v` at index `i`; indexes stay rising. -/
def Memory.write : Memory → Nat → Byte → Memory
  | [], i, v => [(i, v)]
  | c :: m, i, v =>
    if i < c.1 then (i, v) :: c :: m
    else if i = c.1 then (i, v) :: m
    else c :: Memory.write m i v

/-- The array that holds the bytes `s` at indexes `k`, `k + 1`, and so on, and nothing else. -/
def Memory.holding : Nat → List Byte → Memory
  | _, [] => []
  | k, b :: s => (k, b) :: Memory.holding (k + 1) s

/-- The canonical form: indexes strictly rising. No listed byte is redundant, since an unlisted byte has no value. -/
abbrev Memory.wf (m : Memory) : Prop := (m.map Prod.fst).Pairwise (· < ·)

/-- Every index of the array is below `n`. -/
abbrev Memory.within (m : Memory) (n : Nat) : Prop := ∀ c ∈ m, c.1 < n

/-! ### Register words (R25 to R34): each is its fields at their places, reserved bits 0 -/

/-- PARAM, computed from the parameters (R34). -/
def Instance.paramWord (x : Instance) : Word :=
  (0 : BitVec 3) ++ BitVec.ofNat 13 x.cfg.maxLen ++ (0 : BitVec 14) ++ BitVec.ofBool x.cfg.checkCrc ++ BitVec.ofBool x.cfg.strictLength

/-- The 32-bit value of a register as its stored fields give it (R26 to R34). -/
def Instance.regWord (x : Instance) : Reg → Word
  | .cmd => (0 : BitVec 30) ++ x.variant.number
  | .inLen => (0 : BitVec 19) ++ x.inLen
  | .status => (0 : BitVec 28) ++ x.code ++ BitVec.ofBool x.valid ++ BitVec.ofBool x.busy
  | .frame => (0 : BitVec 16) ++ x.functionCode ++ x.address
  | .dataLen => (0 : BitVec 19) ++ x.dataLen
  | .crc => (0 : BitVec 15) ++ BitVec.ofBool x.crcPresent ++ x.crcValue
  | .param => x.paramWord

/-- The registers with fields that are unspecified while a decode is pending (R39). -/
def isResultReg : Reg → Bool
  | .status => true
  | .frame => true
  | .dataLen => true
  | .crc => true
  | .cmd => false
  | .inLen => false
  | .param => false

/-- R39: every result field is unspecified, a free value of its width (log 4, log 5). -/
def Instance.unspecify (d : Nat) (x : Instance) : Instance :=
  { x with
    code := Config.freeCode d, address := Config.freeAddress d, functionCode := Config.freeFunctionCode d,
    dataLen := Config.freeDataLen d, crcValue := Config.freeCrcValue d, crcPresent := Config.freeCrcPresent d, dataBuf := [] }

/-! ### What changes an instance -/

/-- R26: an accepted CMD write. The decoder step follows after `delay` more events (R145). -/
def Instance.accept (v : Variant) (d delay : Nat) (x : Instance) : Instance :=
  { x.unspecify d with variant := v, busy := true, valid := false, delay := delay }

/-- `Commit(r)` (R94): BUSY <- 0, VALID <- 1, and the result registers hold `r`. -/
def Instance.commit (r : DecodeResult) (x : Instance) : Instance :=
  match r with
  | .ok f =>
    { x with
      busy := false, valid := true, code := 0, address := f.address, functionCode := f.functionCode,
      dataLen := BitVec.ofNat 13 f.data.length, crcValue := crcValueOf f.crc, crcPresent := crcPresentOf f.crc,
      dataBuf := Memory.holding 0 f.data }
  | .err k =>
    { x with
      busy := false, valid := true, code := errorCode k, address := 0, functionCode := 0, dataLen := 0, crcValue := 0,
      crcPresent := false, dataBuf := [] }

/-- R138: reset sets every register to its value of R44 and leaves both buffers unspecified. PARAM, FAULTS and REFUSED do not change;
nor do the run's observation and the host agent (log 24). A pending decode is discarded (R139). -/
def Instance.hardReset (x : Instance) : Instance :=
  { x with
    variant := .rtu, inLen := 0, busy := false, valid := false, code := 0, address := 0, functionCode := 0, dataLen := 0,
    crcValue := 0, crcPresent := false, inBuf := [], dataBuf := [], delay := 0 }

/-- R128: the fault joins FAULTS, with the host program line that made it. -/
def Instance.addFault (f : Fault) (line : Nat) (x : Instance) : Instance :=
  { x with faults := x.faults.insert ⟨f, line⟩ }

/-- R129: REFUSED is set. The reason is not stored. -/
def Instance.refuse (_reason : Refusal) (x : Instance) : Instance := { x with refused := true }

/-- R67: the first host agent to access an instance is its host (log 10). DESIGN CHOICE (log 26): the spec leaves open whether an agent
that is another instance's host may become this one's; here it may. -/
def Instance.claim (agent : Nat) (x : Instance) : Instance :=
  { x with owner := match x.owner with
      | none => some agent
      | some a => some a }

/-- R147: a value the host reads joins the run's observation. -/
def Instance.observe (v : Word) (x : Instance) : Instance := { x with reads := x.reads ++ [v] }

/-- R145: an event passes. -/
def Instance.tick (x : Instance) : Instance := { x with delay := x.delay - 1 }

/-! ### What changes the state -/

/-- Apply an operation to the instance that is followed. -/
def State.onInst (f : Instance → Instance) (s : State) : State := { s with inst := f s.inst }

/-- R128 -/
def State.recordFault (f : Fault) (s : State) : State := s.onInst (Instance.addFault f s.line)

/-- R129 -/
def State.recordRefusal (r : Refusal) (s : State) : State := s.onInst (Instance.refuse r)

/-- An event passes for every instance. -/
def State.tick (s : State) : State := { s with inst := s.inst.tick, peers := s.peers.map Instance.tick }

/-- The delay of the next accepted command: the first of `delays`, or else a free one (log 3). -/
def State.nextDelay (s : State) : Nat :=
  match s.delays with
  | [] => Config.freeDelay s.draws
  | d :: _ => d

/-- R26, R142: a command is written to CMD. While a decode is pending that is the fault HostWriteWhileBusy and changes nothing else;
otherwise the command is accepted. -/
def State.startCommand (v : Variant) (s : State) : State :=
  if s.inst.busy then s.recordFault .hostWriteWhileBusy
  else { s with inst := s.inst.accept v s.draws s.nextDelay, delays := s.delays.tail, draws := s.draws + 1 }

/-- R138, R139: the platform resets the instance that is followed. -/
def State.hardReset (s : State) : State := s.onInst Instance.hardReset

/-! ### Host reads (R51, R54): they change nothing but the counter of free values -/

/-- R51, R39: a register read. While a decode is pending the result fields read as free values. -/
def State.readReg (r : Reg) (s : State) : State × Word :=
  if s.inst.busy && isResultReg r then ({ s with draws := s.draws + 1 }, (s.inst.unspecify s.draws).regWord r)
  else (s, s.inst.regWord r)

/-- A byte of an array, or a free byte where it is unspecified. -/
def State.readByte (b : Option Byte) (s : State) : State × Byte :=
  match b with
  | some v => (s, v)
  | none => ({ s with draws := s.draws + 1 }, Config.freeByte s.draws)

/-- DATA_BUF[i]: unspecified while a decode is pending (R39), and where the last decode stored no byte (R33, R40). -/
def Instance.dataByte (x : Instance) (i : Nat) : Option Byte := if x.busy then none else x.dataBuf.read i

/-! ### The frame of a decode (R30, R95) -/

/-- `InByte(i)` for offsets `i`, `i + 1`, and so on below `i + n`: IN_BUF, or one free byte for each byte not written (I12). -/
def inBytes (m : Memory) (d : Nat) : Nat → Nat → List Byte
  | _, 0 => []
  | i, n + 1 => (m.read i).getD (Config.freeByte (d + i)) :: inBytes m d (i + 1) n

/-- B = IN_BUF[0..IN_LEN.LEN), what the decoder step reads (R30, R95). -/
def State.frame (s : State) : List Byte := inBytes s.inst.inBuf s.draws 0 s.inst.inLen.toNat

end Sys2Proof.Machine
end

