-- ==== Sys2Proof/Machine/Rtu.lean ====
section
/-! DEFINITION. DECODE.RTU (spec/41_decode_rtu.md): the core function, which the decoder step runs, and the command that starts it. -/

namespace Sys2Proof.Machine

/-- R97: `DecodeRTU(cfg, B)`. The payload of R101 and the CRC of R102 are the bytes between header and trailer, and the trailer. -/
def decodeRtu (cfg : Config) (frame : List Byte) : DecodeResult :=
  if frame.length < 4 then .err .invalidLength
  else if !fcValid (byteAt frame 1) then .err .invalidFunctionCode
  else if cfg.checkCrc && crc16 (bytesFromTo frame 0 (frame.length - 2)) != le16 frame (frame.length - 2) then .err .invalidCrc
  else .ok
    { address := byteAt frame 0
      functionCode := byteAt frame 1
      data := bytesFromTo frame 2 (frame.length - 2)
      crc := some (le16 frame (frame.length - 2)) }

/-- R97, R26: DECODE.RTU is a CMD write of 0x00000000. It starts the decode; the decoder step (`decoderStep`, R95) then runs `decodeRtu`
on the frame and stores the result (log 7). -/
def execDecodeRtu (s : State) : Host.Outcome State Fault Refusal := .next (s.startCommand .rtu)

end Sys2Proof.Machine
end

