-- ==== Sys2Proof/Machine/Tcp.lean ====
section
/-! DEFINITION. DECODE.TCP (spec/42_decode_tcp.md): the core function, which the decoder step runs, and the command that starts it. -/

namespace Sys2Proof.Machine

/-- R91: with STRICT_LENGTH, the header's length field must be the number of bytes after it. -/
def lengthFieldRejected (cfg : Config) (frame : List Byte) : Bool :=
  cfg.strictLength && decide ((be16 frame 4).toNat ≠ frame.length - 6)

/-- R105: `DecodeTCP(cfg, B)`. The transaction and protocol identifiers are read and dropped (R107), so they do not appear. -/
def decodeTcp (cfg : Config) (frame : List Byte) : DecodeResult :=
  if frame.length < 8 then .err .invalidLength
  else if !fcValid (byteAt frame 7) then .err .invalidFunctionCode
  else if lengthFieldRejected cfg frame then .err .invalidLength
  else .ok
    { address := byteAt frame 6
      functionCode := byteAt frame 7
      data := bytesFromTo frame 8 frame.length
      crc := none }

/-- R105, R26: DECODE.TCP is a CMD write of 0x00000001. It starts the decode; the decoder step (`decoderStep`, R95) then runs `decodeTcp`
on the frame and stores the result (log 7). -/
def execDecodeTcp (s : State) : Host.Outcome State Fault Refusal := .next (s.startCommand .tcp)

end Sys2Proof.Machine
end

