-- ==== Sys2Proof/Machine/RtuTcp.lean ====
section
/-! DEFINITION. DECODE.RTUTCP (spec/43_decode_rtu_over_tcp.md): the core function, which the decoder step runs, and the command that
starts it. -/

namespace Sys2Proof.Machine

/-- R114: `DecodeRTUTCP(cfg, B)`: the outer length check, the RTU decode of B[6..n), and last the strict length check (R119). -/
def decodeRtuTcp (cfg : Config) (frame : List Byte) : DecodeResult :=
  if frame.length < 8 then .err .invalidLength
  else match decodeRtu cfg (bytesFromTo frame 6 frame.length) with
    | .err k => .err k
    | .ok f => if lengthFieldRejected cfg frame then .err .invalidLength else .ok f

/-- R114, R26: DECODE.RTUTCP is a CMD write of 0x00000002. It starts the decode; the decoder step (`decoderStep`, R95) then runs
`decodeRtuTcp` on the frame and stores the result (log 7). -/
def execDecodeRtuTcp (s : State) : Host.Outcome State Fault Refusal := .next (s.startCommand .rtuTcp)

end Sys2Proof.Machine
end

