-- ==== Sys2Proof/Machine/Dispatch.lean ====
section
/-! DEFINITION. Which meaning each command has (spec/30_encoding.md R69). -/

namespace Sys2Proof.Machine

/-- One command: an accepted or faulting write to CMD of the instance that is followed (R26). -/
def exec (i : Instr) (s : State) : Host.Outcome State Fault Refusal :=
  match i with
  | .decodeRtu => Sys2Proof.Machine.execDecodeRtu s
  | .decodeTcp => Sys2Proof.Machine.execDecodeTcp s
  | .decodeRtuTcp => Sys2Proof.Machine.execDecodeRtuTcp s

end Sys2Proof.Machine
end

