-- ==== Sys2Proof/Machine/Bus.lean ====
section
/-! DEFINITION. Host accesses to one instance: the offset map, widths and alignment, reads, writes, and the order in which broken
rules are reported (spec/20_memory.md R46 to R56, spec/60_exceptions.md R127 to R129). -/

namespace Sys2Proof.Machine

/-- What R127 decides about one access: carried out (with the value read, for a read), a fault, or a refusal. -/
inductive Verdict where
  | done (s : State) (value : Option Word)
  | faulted (f : Fault)
  | refused (r : Refusal)
  deriving DecidableEq, Repr

/-- R25: the offset of a register. -/
def regOffset : Reg → Nat
  | .cmd => 0x000
  | .inLen => 0x004
  | .status => 0x008
  | .frame => 0x00C
  | .dataLen => 0x010
  | .crc => 0x014
  | .param => 0x018

/-- R25: the register at an offset. -/
def regAt (off : Nat) : Option Reg :=
  if off = 0x000 then some .cmd
  else if off = 0x004 then some .inLen
  else if off = 0x008 then some .status
  else if off = 0x00C then some .frame
  else if off = 0x010 then some .dataLen
  else if off = 0x014 then some .crc
  else if off = 0x018 then some .param
  else none

/-- R47 to R50: what an access of `width` bytes at block offset `off` names, or why it is refused: first for the region, then for the
width, then for the alignment. -/
def targetOf (maxLen off width : Nat) : Except Refusal Target :=
  if off < 0x1C then
    if width ≠ 4 then .error .accessWidth
    else match regAt off with
      | some r => .ok (.reg r)
      | none => .error .misaligned
  else if 0x1000 ≤ off ∧ off < 0x1000 + maxLen then
    if width ≠ 1 then .error .accessWidth else .ok (.inBuf (off - 0x1000))
  else if 0x2000 ≤ off ∧ off < 0x2000 + maxLen then
    if width ≠ 1 then .error .accessWidth else .ok (.dataBuf (off - 0x2000))
  else .error .unmapped

/-- R51, R54: a read. A byte is widened with zeros. -/
def readTarget (t : Target) (s : State) : State × Word :=
  match t with
  | .reg r => s.readReg r
  | .inBuf i => let (s', b) := s.readByte (s.inst.inBuf.read i); (s', b.setWidth 32)
  | .dataBuf i => let (s', b) := s.readByte (s.inst.dataByte i); (s', b.setWidth 32)

/-- R26, R70: a CMD write. A word that is a command has that command's meaning (`exec`), which itself faults while a decode is pending;
of the other words the fault is reported before the refusal (R127). -/
def writeCmd (w : Word) (s : State) : Verdict :=
  match decode w with
  | .ok i => match exec i s with
    | .next t => .done t none
    | .fault f => .faulted f
    | .refused r => .refused r
  | .error .reservedCommand => if s.inst.busy then .faulted .hostWriteWhileBusy else .refused .reservedCommand

/-- R27: an IN_LEN write. -/
def writeInLen (w : Word) (s : State) : Verdict :=
  if s.inst.busy then .faulted .hostWriteWhileBusy
  else if w.extractLsb' 13 19 ≠ 0 ∨ s.inst.cfg.maxLen < (w.extractLsb' 0 13).toNat then .refused .lengthOutOfRange
  else .done (s.onInst fun x => { x with inLen := w.extractLsb' 0 13 }) none

/-- R53: an IN_BUF write stores v[7:0]. -/
def writeInBuf (i : Nat) (w : Word) (s : State) : Verdict :=
  if s.inst.busy then .faulted .hostWriteWhileBusy
  else .done (s.onInst fun x => { x with inBuf := x.inBuf.write i (w.extractLsb' 0 8) }) none

/-- R52, R53: a write. -/
def writeTarget (t : Target) (w : Word) (s : State) : Verdict :=
  match t with
  | .reg .cmd => writeCmd w s
  | .reg .inLen => writeInLen w s
  | .reg .status => .refused .readOnlyWrite
  | .reg .frame => .refused .readOnlyWrite
  | .reg .dataLen => .refused .readOnlyWrite
  | .reg .crc => .refused .readOnlyWrite
  | .reg .param => .refused .readOnlyWrite
  | .inBuf i => writeInBuf i w s
  | .dataBuf _ => .refused .readOnlyWrite

/-- R127: one access at a block offset. -/
def blockAccess (a : Access) (off : Nat) (s : State) : Verdict :=
  match targetOf s.inst.cfg.maxLen off a.width with
  | .error r => .refused r
  | .ok t => match a with
    | .read _ _ => let (s', v) := readTarget t s; .done s' (some v)
    | .write _ _ w => writeTarget t w s

/-- R67, R127: one access by a host agent; another agent than the instance's host is refused. -/
def accessVerdict (agent : Nat) (a : Access) (off : Nat) (s : State) : Verdict :=
  if s.inst.owner = some agent then blockAccess a off s else .refused .multipleHosts

/-- R128, R129, R147: what a verdict does to the state, and the value the host gets back. A fault or a refusal is recorded, changes
nothing else and returns no value. -/
def settle (s : State) : Verdict → State × Option Word
  | .done t (some v) => (t.onInst (Instance.observe v), some v)
  | .done t none => (t, none)
  | .faulted f => (s.recordFault f, none)
  | .refused r => (s.recordRefusal r, none)

/-- One host access to the instance that is followed (R55: it takes effect at one instant). -/
def hostAccess (agent : Nat) (a : Access) (off : Nat) (s : State) : State × Option Word :=
  let c := s.onInst (Instance.claim agent)
  settle c (accessVerdict agent a off c)

end Sys2Proof.Machine
end

