-- ==== Sys2Proof/Machine/Decoder.lean ====
section
/-! DEFINITION. The decoder agent: the core function's dispatch (spec/40_common.md R86) and the decoder step (R95). -/

namespace Sys2Proof.Machine

/-- R86: `Decode(cfg, variant, B)`. -/
def decodeFrame (cfg : Config) (v : Variant) (frame : List Byte) : DecodeResult :=
  match v with
  | .rtu => decodeRtu cfg frame
  | .tcp => decodeTcp cfg frame
  | .rtuTcp => decodeRtuTcp cfg frame

/-- R95: with a decode pending, the decoder's one step: Commit(Decode(cfg, CMD.VARIANT, B)); otherwise the decoder has no step. One
free value is used up for each byte of the frame. -/
def decoderStep (s : State) : State :=
  if s.inst.busy then
    { s with
      inst := s.inst.commit (decodeFrame s.inst.cfg s.inst.variant s.frame)
      draws := s.draws + s.inst.inLen.toNat }
  else s

end Sys2Proof.Machine
end

