-- ==== Sys2Proof/Machine/HostAgent.lean ====
section
/-! DEFINITION. The host side and the total order of events: which instance an address belongs to (spec/20_memory.md R46), host
programs and their pseudo-instructions (spec/30_encoding.md R84, R85), and which event comes next (R60,
spec/70_reset_and_hazards.md R145). -/

namespace Sys2Proof.Machine

/-! ### Addresses -/

/-- R46: a host address belongs to the instance when BASE <= A < BASE + 0x4000; host addresses have HOST_ADDR_W bits (log 16). -/
def covers (c : Config) (addr : Nat) : Bool :=
  decide (addr < 2 ^ c.hostAddrW) && decide (c.base ≤ addr) && decide (addr < c.base + 0x4000)

/-- R46: where a host address lies. -/
def State.place (addr : Nat) (s : State) : Place :=
  if covers s.inst.cfg addr then .focus
  else match s.peers.findIdx? (fun p => covers p.cfg addr) with
    | some k => .peer k
    | none => .nowhere

/-- The instance that a host agent serves (R67, R135); an agent that has accessed none is taken to serve the followed one (log 11).
DESIGN CHOICE (log 26): the spec leaves open whether one agent may serve two instances; of several, the followed one counts, or else the
first of the others. -/
def State.home (agent : Nat) (s : State) : Place :=
  if s.inst.owner = some agent then .focus
  else match s.peers.findIdx? (fun p => p.owner == some agent) with
    | some k => .peer k
    | none => .focus

/-- The instance whose state an agent's access to an address can change: the one the address belongs to, or, for an address of no
instance, the one the agent serves (log 11). -/
def State.landing (agent addr : Nat) (s : State) : Place :=
  match s.place addr with
  | .focus => .focus
  | .peer k => .peer k
  | .nowhere => s.home agent

/-- R135: carry out an operation on the instance at a place; the other instances keep their state. -/
def State.atPlace (p : Place) (f : State → State × Option Word) (s : State) : State × Option Word :=
  match p with
  | .focus => f s
  | .peer k => match s.peers[k]? with
    | none => (s, none)
    | some x =>
      let t := f { s with inst := x }
      ({ t.1 with inst := s.inst, peers := s.peers.set k t.1.inst }, t.2)
  | .nowhere => (s, none)

/-- An agent's access as the followed instance gets it: at its block offset, or refused as Unmapped outside the instance's window. -/
def localAccess (agent : Nat) (a : Access) (s : State) : State × Option Word :=
  if covers s.inst.cfg a.addr then hostAccess agent a (a.addr - s.inst.cfg.base) s else (s.recordRefusal .unmapped, none)

/-- One bus access by a host agent, wherever its address lies. -/
def State.busAccess (agent : Nat) (a : Access) (s : State) : State × Option Word :=
  s.atPlace (s.landing agent a.addr) (localAccess agent a)

/-- R138: the platform resets the instance whose window starts at `base`; a reset of no instance does nothing here. -/
def State.resetAt (base : Nat) (s : State) : State := (s.atPlace (s.place base) fun t => (t.hardReset, none)).1

/-! ### Host programs -/

/-- R84: `lw OFF` at the instance at `base`. -/
def lwOp (base off : Nat) : HostOp := .access (.read 4 (base + off))

/-- R84: `lb OFF`. -/
def lbOp (base off : Nat) : HostOp := .access (.read 1 (base + off))

/-- R84: `sw OFF, imm32`. -/
def swOp (base off : Nat) (w : Word) : HostOp := .access (.write 4 (base + off) w)

/-- R84: `sb OFF, imm8`. -/
def sbOp (base off : Nat) (b : Byte) : HostOp := .access (.write 1 (base + off) (b.setWidth 32))

/-- R85: `sb IN_BUF+i, b` for each byte of a frame, from offset `i` on. -/
def loadOps (base : Nat) : Nat → List Byte → List HostOp
  | _, [] => []
  | i, b :: bs => sbOp base (0x1000 + i) b :: loadOps base (i + 1) bs

/-- R85: `lb DATA_BUF+i` for the `n` offsets from `i` on. -/
def unloadOps (base : Nat) : Nat → Nat → List HostOp
  | _, 0 => []
  | i, n + 1 => lbOp base (0x2000 + i) :: unloadOps base (i + 1) n

/-- R84, R85: what a source line expands to. `wait` and `result` stay one piece, since what they do depends on the values read. -/
def expandLine (base : Nat) : SrcLine → List HostOp
  | .sw off w => [swOp base off w]
  | .lw off => [lwOp base off]
  | .sb off b => [sbOp base off b]
  | .lb off => [lbOp base off]
  | .decode i => [swOp base (regOffset .cmd) (encode i)]
  | .frame bs => loadOps base 0 bs ++ [swOp base (regOffset .inLen) (BitVec.ofNat 32 bs.length)]
  | .wait => [.wait base]
  | .result => [.result base]
  | .reset => [.reset base]

/-- A host program as the machine holds it: the lines of one agent for the instance at `base`, numbered from `n` (R128). -/
def assemble (agent base : Nat) : Nat → List SrcLine → List HostLine
  | _, [] => []
  | n, l :: ls => (expandLine base l).map (fun op => ⟨n, agent, op⟩) ++ assemble agent base (n + 1) ls

/-- R84, R85: what a piece of a program does now: a bus access, or (reset) none. -/
def opNow : HostOp → Option Access
  | .access a => some a
  | .wait base => some (.read 4 (base + regOffset .status))
  | .result base => some (.read 4 (base + regOffset .status))
  | .resultTail base => some (.read 4 (base + regOffset .dataLen))
  | .reset _ => none

/-- R85: what a piece of a program leaves to do, given the value its access returned: `wait` repeats until bit 1 (VALID) of it is 1,
and `result` reads as many payload bytes as DATA_LEN said (log 17). -/
def opLater (value : Option Word) : HostOp → List HostOp
  | .access _ => []
  | .wait base => if (value.getD 0).getLsbD 1 then [] else [.wait base]
  | .result base => [lwOp base (regOffset .frame), .resultTail base]
  | .resultTail base => lwOp base (regOffset .crc) :: unloadOps base 0 (value.getD 0).toNat
  | .reset _ => []

/-- The host address at which a piece of a program acts next. -/
def opAddr : HostOp → Nat
  | .access a => a.addr
  | .wait base => base + regOffset .status
  | .result base => base + regOffset .status
  | .resultTail base => base + regOffset .dataLen
  | .reset base => base

/-- R147: the line belongs to the run on the followed instance: its host has still to carry it out, or it acts on the instance. Lines
of other hosts at other instances do not (log 25). -/
def State.concerns (l : HostLine) (s : State) : Bool :=
  decide (s.inst.owner = some l.agent) || decide (s.landing l.agent (opAddr l.op) = .focus)

/-- One line of the host program, its access or reset, and what is left of it. -/
def hostLine (l : HostLine) (s : State) : State :=
  match l.op with
  | .reset base => s.resetAt base
  | op => match opNow op with
    | none => s
    | some a =>
      let t := s.busAccess l.agent a
      { t.1 with program := (opLater t.2 op).map (fun o => ⟨l.line, l.agent, o⟩) ++ t.1.program }

/-! ### The order of events (R60, R145) -/

/-- A pending decode's step comes when its delay has run out, or at once when the host has nothing left to do (R147). -/
def decoderDue (hostDone : Bool) (x : Instance) : Bool := x.busy && (hostDone || x.delay == 0)

/-- The decoder whose step comes next, if one does. -/
def State.nextDecoder (s : State) : Option Place :=
  if decoderDue s.program.isEmpty s.inst then some .focus
  else match s.peers.findIdx? (decoderDue s.program.isEmpty) with
    | some k => some (.peer k)
    | none => none

/-- The state in which a line's access or reset takes effect: an event passes, and the line is the one in progress. -/
def State.beginLine (l : HostLine) (rest : List HostLine) (s : State) : State :=
  { s.tick with program := rest, line := l.line }

/-- One event of the total order (R60): the decoder step that is due, or else the next line of the host program, or else nothing: the
block is idle (R137, R140; log 15). -/
def advance (s : State) : Host.Outcome State Fault Refusal :=
  match s.nextDecoder with
  | some p => .next (s.tick.atPlace p fun t => (decoderStep t, none)).1
  | none => match s.program with
    | [] => .next s
    | l :: rest => .next (hostLine l (s.beginLine l rest))

/-- The host program that writes a word to CMD of the instance that is followed, as its host, and nothing else. The delays of pending
decodes grow by the one event this takes. -/
def State.placeCommand (w : Word) (s : State) : State :=
  { s with
    inst := { s.inst with delay := s.inst.delay + 1 }
    peers := s.peers.map fun p => { p with delay := p.delay + 1 }
    program := [⟨s.line + 1, s.inst.owner.getD 0, swOp s.inst.cfg.base (regOffset .cmd) w⟩] }

end Sys2Proof.Machine
end

