-- ==== Sys2Proof/Machine/Step.lean ====
section
/-! DEFINITION. One step of the machine, and how the host's checks put an instruction where the step takes its next one from. -/

namespace Sys2Proof.Machine

/-- One step: the next event of the total order of host accesses, resets and decoder steps (R60). -/
def step (s : State) : Host.Outcome State Fault Refusal := advance s

/-- The block fetches no instructions (R24, R65): a command runs because the host writes it to CMD. So the next instruction is put
into the host program, as its only line (log 9). -/
def State.withFetchWord (s : State) (nbits w : Nat) : State := s.placeCommand (BitVec.ofNat 32 (w % 2 ^ nbits))

end Sys2Proof.Machine
end

