-- ==== Sys2Proof/WellFormed.lean ====
section
/-! DEFINITION. What the spec asks of terms before they mean anything: the constraints on an instance's parameters (R9), and the shape
of host accesses and program lines (R46, R84, R148). A command has no operand, so every command is well formed (R68). -/

namespace Sys2Proof

/-- R68: a command word has no operand field, so there is nothing to check. -/
def Instr.wellFormed : Instr → Bool
  | .decodeRtu => true
  | .decodeTcp => true
  | .decodeRtuTcp => true

/-- R9: 14 <= MAX_LEN <= 4096, BASE a host address that is a multiple of 0x4000, HOST_ADDR_W >= 14. -/
def Config.wellFormed (c : Config) : Bool :=
  decide (14 ≤ c.maxLen) && decide (c.maxLen ≤ 4096) && decide (c.base % 0x4000 = 0) && decide (c.base < 2 ^ c.hostAddrW)
    && decide (14 ≤ c.hostAddrW)

/-- R46, R9: a host address has HOST_ADDR_W bits. -/
def Access.wellFormed (c : Config) (a : Access) : Bool := decide (a.addr < 2 ^ c.hostAddrW)

/-- R84: OFF is a block offset; R148: the host must keep a frame's length within MAX_LEN. -/
def SrcLine.wellFormed (c : Config) : SrcLine → Bool
  | .sw off _ => decide (off < 0x4000)
  | .lw off => decide (off < 0x4000)
  | .sb off _ => decide (off < 0x4000)
  | .lb off => decide (off < 0x4000)
  | .decode i => i.wellFormed
  | .frame bs => decide (bs.length ≤ c.maxLen)
  | .wait => true
  | .result => true
  | .reset => true

end Sys2Proof
end

