-- ==== Sys2Proof/Safety.lean ====
section
/-! DEFINITION. What a good run is (spec/70_reset_and_hazards.md R147), and the invariant of the machine's states
(spec/10_state.md R28, R33, R37, R38, R40, R44). -/

namespace Sys2Proof.Machine

/-- R147: the run on the followed instance has ended: its host has carried out its last line, and no decode is pending. What other hosts
have still to do at other instances is not asked for. -/
abbrev State.ended (s : State) : Prop := (∀ l ∈ s.program, s.concerns l = false) ∧ s.inst.busy = false

/-- R147: the run is good: it has ended with FAULTS empty and REFUSED false. -/
abbrev State.good (s : State) : Prop := s.ended ∧ s.inst.faults = [] ∧ s.inst.refused = false

/-- R147: a run's observation: the values its host has read, and the registers and buffers. -/
abbrev Instance.observation (x : Instance) : List Word × List Word × Memory × Memory :=
  (x.reads, [Reg.cmd, .inLen, .status, .frame, .dataLen, .crc, .param].map x.regWord, x.inBuf, x.dataBuf)

/-- FRAME, DATA_LEN and CRC read 0 and DATA_BUF is unspecified (R40, R44). -/
abbrev Instance.noResult (x : Instance) : Prop :=
  x.address = 0 ∧ x.functionCode = 0 ∧ x.dataLen = 0 ∧ x.crcValue = 0 ∧ x.crcPresent = false ∧ x.dataBuf = []

/-- The result registers show the result `r` of a decode: what Commit(r) leaves in them (R94). DATA_BUF holds the payload and, past it,
no defined byte (R33, R40). -/
def Instance.shows (r : DecodeResult) (x : Instance) : Prop :=
  x.busy = false ∧ x.valid = true ∧
    match r with
    | .ok f =>
      x.code = 0 ∧ x.address = f.address ∧ x.functionCode = f.functionCode ∧ x.dataLen.toNat = f.data.length
        ∧ (∀ i, x.dataBuf.read i = f.data[i]?) ∧ x.crcPresent = f.crc.isSome ∧ x.crcValue = f.crc.getD 0
    | .err k => x.code = errorCode k ∧ x.noResult

/-- The result registers hold a decoded frame (R33, R38): a valid function code, one byte of DATA_BUF for each payload byte, and a CRC
exactly for the RTU-framed variants. -/
abbrev Instance.frameResult (x : Instance) : Prop :=
  fcValid x.functionCode = true ∧ x.dataBuf.map Prod.fst = List.range x.dataLen.toNat ∧ x.dataLen.toNat + 4 ≤ x.cfg.maxLen
    ∧ (x.crcPresent = true ↔ x.variant ≠ .tcp) ∧ (x.crcPresent = false → x.crcValue = 0)

/-- What holds of an instance after every step. -/
structure Instance.Inv (x : Instance) : Prop where
  /-- the parameters are legal (R9) -/
  legalCfg      : x.cfg.wellFormed = true
  /-- IN_LEN.LEN is within MAX_LEN (R27) -/
  lengthLegal   : x.inLen.toNat ≤ x.cfg.maxLen
  /-- IN_BUF is in canonical form, within MAX_LEN (R30) -/
  inBufWf       : x.inBuf.wf
  inBufWithin   : x.inBuf.within x.cfg.maxLen
  /-- DATA_BUF is in canonical form, within MAX_LEN (R33) -/
  dataBufWf     : x.dataBuf.wf
  dataBufWithin : x.dataBuf.within x.cfg.maxLen
  /-- BUSY and VALID are never both 1 (R28) -/
  notBoth       : x.busy = true → x.valid = false
  /-- before the first command the result registers hold their reset values (R28, R44) -/
  beforeFirst   : x.busy = false → x.valid = false → x.code = 0 ∧ x.noResult
  /-- after a successful decode they hold a frame (R33, R38) -/
  afterSuccess  : x.valid = true → x.code = 0 → x.frameResult
  /-- after a failed decode they hold nothing of it (R40) -/
  afterFailure  : x.valid = true → x.code ≠ 0 → x.noResult
  /-- InvalidCRC arises only with CHECK_CRC, from an RTU-framed decode (R90, R122) -/
  crcError      : x.valid = true → x.code = 3 → x.cfg.checkCrc = true ∧ x.variant ≠ .tcp

/-- The result registers of two instances hold the same (R20). -/
abbrev Instance.sameResult (x y : Instance) : Prop :=
  x.valid = y.valid ∧ x.code = y.code ∧ x.address = y.address ∧ x.functionCode = y.functionCode ∧ x.dataLen = y.dataLen
    ∧ x.crcValue = y.crcValue ∧ x.crcPresent = y.crcPresent ∧ x.dataBuf = y.dataBuf

/-- The decoder's inputs are the same in two instances (R59). -/
abbrev Instance.sameInputs (x y : Instance) : Prop :=
  x.cfg = y.cfg ∧ x.variant = y.variant ∧ x.inLen = y.inLen ∧ x.inBuf = y.inBuf

/-- `B` is a frame that a decode of `x` can see: IN_LEN.LEN bytes, each the byte of IN_BUF where the host has written one, and any byte
where it has not (R30, I12). -/
abbrev Instance.seesFrame (x : Instance) (B : List Byte) : Prop :=
  B.length = x.inLen.toNat ∧ ∀ i b, i < B.length → x.inBuf.read i = some b → B[i]? = some b

/-- A host agent may access the instance: it is its host, or no agent has accessed it yet (R67). -/
abbrev Instance.admits (agent : Nat) (x : Instance) : Prop := x.owner = none ∨ x.owner = some agent

/-- The invariant of the whole system: of each instance, and every instance is at its own BASE (R135). -/
structure State.Inv (s : State) : Prop where
  followed : s.inst.Inv
  others   : ∀ p ∈ s.peers, p.Inv
  bases    : ((s.inst :: s.peers).map fun x => x.cfg.base).Pairwise (· ≠ ·)

end Sys2Proof.Machine
end

