-- ==== Sys2Proof/Certificates/Slice0/Obligations.lean ====
section
/-! DEFINITION. The statements for the provers, each from the spec's numbered rules. -/

open Sys2Proof Sys2Proof.Machine

/-! ### The command word -/

/-- R69, R70: "The full 32-bit value written selects the command": 0, 1 and 2 are the commands, 3 and every word with a bit of [31:2] set
are reserved. -/
def Obligations.CommandMap : Prop :=
  decode 0x00000000#32 = .ok .decodeRtu ∧ decode 0x00000001#32 = .ok .decodeTcp ∧ decode 0x00000002#32 = .ok .decodeRtuTcp
    ∧ decode 0x00000003#32 = .error .reservedCommand
    ∧ ∀ w : Word, w.extractLsb' 2 30 ≠ 0 → decode w = .error .reservedCommand

/-- R68, R69: every command is the decoding of its word, and of no other word. -/
def Obligations.DecodeEncodeAgree : Prop := ∀ (w : Word) (i : Instr), decode w = .ok i ↔ w = encode i

/-! ### Frame fields and checks -/

/-- R76, R77, R78, R79: a byte field, the two 16-bit fields, and a run of bytes, in terms of the frame's bytes. -/
def Obligations.FieldAssembly : Prop :=
  ∀ (B : List Byte) (i : Nat), i + 1 < B.length → ∃ x y, B[i]? = some x ∧ B[i + 1]? = some y ∧ byteAt B i = x
    ∧ (be16 B i).toNat = x.toNat * 256 + y.toNat ∧ (le16 B i).toNat = x.toNat + y.toNat * 256
    ∧ ∀ b k, (bytesFromTo B i b)[k]? = if i + k < b then B[i + k]? else none

/-- R88: "`FcValid(x)` for an 8-bit x is true exactly when 1 <= x <= 127. Put another way, x != 0 and x[7] = 0." And "When a command finds
`FcValid(function_code)` false, it does `raise InvalidFunctionCode`." -/
def Obligations.FunctionCodeRange : Prop :=
  (∀ x : Byte, (fcValid x = true ↔ 1 ≤ x.toNat ∧ x.toNat ≤ 127) ∧ (fcValid x = true ↔ x ≠ 0 ∧ x.getLsbD 7 = false))
    ∧ ∀ (cfg : Config) (B : List Byte),
      (4 ≤ B.length → fcValid (byteAt B 1) = false → decodeFrame cfg .rtu B = .err .invalidFunctionCode)
      ∧ (8 ≤ B.length → fcValid (byteAt B 7) = false → decodeFrame cfg .tcp B = .err .invalidFunctionCode)
      ∧ (10 ≤ B.length → fcValid (byteAt B 7) = false → decodeFrame cfg .rtuTcp B = .err .invalidFunctionCode)

/-- R89: the check values that the rule gives for Crc16. -/
def Obligations.CrcCheckValues : Prop :=
  crc16 [0x31, 0x32, 0x33, 0x34, 0x35, 0x36, 0x37, 0x38, 0x39] = 0x4B37 ∧ crc16 [] = 0xFFFF
    ∧ crc16 [0x11, 0x03, 0x00, 0x6B, 0x00, 0x03] = 0x8776 ∧ crc16 [0x01, 0x03, 0x00, 0x6B, 0x00, 0x03] = 0x1774

/-- R89, R78: a byte sequence followed by its own Crc16, less significant byte first, has Crc16 0. -/
def Obligations.CrcOfCheckedSequence : Prop :=
  ∀ S : List Byte, crc16 (S ++ [(crc16 S).extractLsb' 0 8, (crc16 S).extractLsb' 8 8]) = 0

/-! ### The core function -/

/-- R97 to R103: DECODE.RTU's result for every frame and configuration. -/
def Obligations.RtuResult : Prop :=
  ∀ (cfg : Config) (B : List Byte),
    (B.length < 4 → decodeFrame cfg .rtu B = .err .invalidLength)
    ∧ (4 ≤ B.length → fcValid (byteAt B 1) = false → decodeFrame cfg .rtu B = .err .invalidFunctionCode)
    ∧ (4 ≤ B.length → fcValid (byteAt B 1) = true → cfg.checkCrc = true → crc16 (B.take (B.length - 2)) ≠ le16 B (B.length - 2) →
        decodeFrame cfg .rtu B = .err .invalidCrc)
    ∧ (4 ≤ B.length → fcValid (byteAt B 1) = true → (cfg.checkCrc = true → crc16 (B.take (B.length - 2)) = le16 B (B.length - 2)) →
        ∃ data : List Byte, data.length = B.length - 4 ∧ (∀ k, k < B.length - 4 → data[k]? = B[2 + k]?) ∧
          decodeFrame cfg .rtu B = .ok ⟨byteAt B 0, byteAt B 1, data, some (le16 B (B.length - 2))⟩)

/-- R105 to R112: DECODE.TCP's result for every frame and configuration. -/
def Obligations.TcpResult : Prop :=
  ∀ (cfg : Config) (B : List Byte),
    (B.length < 8 → decodeFrame cfg .tcp B = .err .invalidLength)
    ∧ (8 ≤ B.length → fcValid (byteAt B 7) = false → decodeFrame cfg .tcp B = .err .invalidFunctionCode)
    ∧ (8 ≤ B.length → fcValid (byteAt B 7) = true → cfg.strictLength = true → (be16 B 4).toNat ≠ B.length - 6 →
        decodeFrame cfg .tcp B = .err .invalidLength)
    ∧ (8 ≤ B.length → fcValid (byteAt B 7) = true → (cfg.strictLength = true → (be16 B 4).toNat = B.length - 6) →
        decodeFrame cfg .tcp B = .ok ⟨byteAt B 6, byteAt B 7, B.drop 8, none⟩)

/-- R114 to R119: DECODE.RTUTCP's result in terms of the bytes of the whole frame (the spec's own inference, R117, R118), for every frame
and configuration. -/
def Obligations.RtuTcpResult : Prop :=
  ∀ (cfg : Config) (B : List Byte),
    (B.length < 10 → decodeFrame cfg .rtuTcp B = .err .invalidLength)
    ∧ (10 ≤ B.length → fcValid (byteAt B 7) = false → decodeFrame cfg .rtuTcp B = .err .invalidFunctionCode)
    ∧ (10 ≤ B.length → fcValid (byteAt B 7) = true → cfg.checkCrc = true →
        crc16 ((B.drop 6).take (B.length - 8)) ≠ le16 B (B.length - 2) → decodeFrame cfg .rtuTcp B = .err .invalidCrc)
    ∧ (10 ≤ B.length → fcValid (byteAt B 7) = true →
        (cfg.checkCrc = true → crc16 ((B.drop 6).take (B.length - 8)) = le16 B (B.length - 2)) →
        cfg.strictLength = true → (be16 B 4).toNat ≠ B.length - 6 → decodeFrame cfg .rtuTcp B = .err .invalidLength)
    ∧ (10 ≤ B.length → fcValid (byteAt B 7) = true →
        (cfg.checkCrc = true → crc16 ((B.drop 6).take (B.length - 8)) = le16 B (B.length - 2)) →
        (cfg.strictLength = true → (be16 B 4).toNat = B.length - 6) →
        ∃ data : List Byte, data.length = B.length - 10 ∧ (∀ k, k < B.length - 10 → data[k]? = B[8 + k]?) ∧
          decodeFrame cfg .rtuTcp B = .ok ⟨byteAt B 6, byteAt B 7, data, some (le16 B (B.length - 2))⟩)

/-- R92: for each variant, exactly when each error kind is the one reported: "the first check that fails decides the error". -/
def Obligations.ErrorPriority : Prop :=
  ∀ (cfg : Config) (B : List Byte),
    (decodeFrame cfg .rtu B = .err .invalidLength ↔ B.length < 4)
    ∧ (decodeFrame cfg .rtu B = .err .invalidFunctionCode ↔ 4 ≤ B.length ∧ fcValid (byteAt B 1) = false)
    ∧ (decodeFrame cfg .rtu B = .err .invalidCrc ↔ 4 ≤ B.length ∧ fcValid (byteAt B 1) = true ∧ cfg.checkCrc = true
        ∧ crc16 (B.take (B.length - 2)) ≠ le16 B (B.length - 2))
    ∧ (decodeFrame cfg .tcp B = .err .invalidLength ↔ B.length < 8 ∨ fcValid (byteAt B 7) = true ∧ cfg.strictLength = true
        ∧ (be16 B 4).toNat ≠ B.length - 6)
    ∧ (decodeFrame cfg .tcp B = .err .invalidFunctionCode ↔ 8 ≤ B.length ∧ fcValid (byteAt B 7) = false)
    ∧ decodeFrame cfg .tcp B ≠ .err .invalidCrc
    ∧ (decodeFrame cfg .rtuTcp B = .err .invalidLength ↔ B.length < 10 ∨ fcValid (byteAt B 7) = true
        ∧ (cfg.checkCrc = true → crc16 ((B.drop 6).take (B.length - 8)) = le16 B (B.length - 2))
        ∧ cfg.strictLength = true ∧ (be16 B 4).toNat ≠ B.length - 6)
    ∧ (decodeFrame cfg .rtuTcp B = .err .invalidFunctionCode ↔ 10 ≤ B.length ∧ fcValid (byteAt B 7) = false)
    ∧ (decodeFrame cfg .rtuTcp B = .err .invalidCrc ↔ 10 ≤ B.length ∧ fcValid (byteAt B 7) = true ∧ cfg.checkCrc = true
        ∧ crc16 ((B.drop 6).take (B.length - 8)) ≠ le16 B (B.length - 2))

/-- R116, R120: "for every n >= 6, DecodeRTUTCP(cfg, B) = DecodeRTU(cfg, B[6..n)) when STRICT_LENGTH = 0". -/
def Obligations.RtuTcpIsRtuOfTail : Prop :=
  ∀ (cfg : Config) (B : List Byte), cfg.strictLength = false → 6 ≤ B.length →
    decodeFrame cfg .rtuTcp B = decodeFrame cfg .rtu (B.drop 6)

/-- R82, R107, R119: with STRICT_LENGTH = 0 the six header bytes of a TCP-framed frame have no effect on the result. -/
def Obligations.HeaderHasNoEffect : Prop :=
  ∀ (cfg : Config) (H H' B : List Byte), cfg.strictLength = false → H.length = 6 → H'.length = 6 →
    decodeFrame cfg .tcp (H ++ B) = decodeFrame cfg .tcp (H' ++ B)
    ∧ decodeFrame cfg .rtuTcp (H ++ B) = decodeFrame cfg .rtuTcp (H' ++ B)

/-- R73, R74, R75: a frame laid out as its variant's format says decodes to the fields it was laid out from, with a valid function code,
the CRC that CHECK_CRC asks for and the length that STRICT_LENGTH asks for. -/
def Obligations.LaidOutFrameDecodes : Prop :=
  ∀ (cfg : Config) (a f : Byte) (data : List Byte) (c : Half) (H : List Byte), fcValid f = true → H.length = 6 →
    ((cfg.checkCrc = true → c = crc16 (a :: f :: data)) →
      decodeFrame cfg .rtu (a :: f :: data ++ [c.extractLsb' 0 8, c.extractLsb' 8 8]) = .ok ⟨a, f, data, some c⟩)
    ∧ ((cfg.strictLength = true → (be16 H 4).toNat = data.length + 2) →
      decodeFrame cfg .tcp (H ++ a :: f :: data) = .ok ⟨a, f, data, none⟩)
    ∧ ((cfg.checkCrc = true → c = crc16 (a :: f :: data)) → (cfg.strictLength = true → (be16 H 4).toNat = data.length + 4) →
      decodeFrame cfg .rtuTcp (H ++ a :: f :: data ++ [c.extractLsb' 0 8, c.extractLsb' 8 8]) = .ok ⟨a, f, data, some c⟩)

/-- R96: "On every successful decode, |f.data| <= n − 4 < MAX_LEN", for a frame that IN_LEN can present (R27). The spec marks the rule as
its own inference. -/
def Obligations.PayloadFits : Prop :=
  ∀ (cfg : Config) (v : Variant) (B : List Byte) (f : DecodedFrame), decodeFrame cfg v B = .ok f →
    4 ≤ B.length ∧ f.data.length ≤ B.length - 4 ∧ (B.length ≤ cfg.maxLen → B.length - 4 < cfg.maxLen)

/-- R16, R38: a decoded frame has a function code in 1 to 127, and a CRC exactly when the variant is RTU-framed. -/
def Obligations.DecodedFrameShape : Prop :=
  ∀ (cfg : Config) (v : Variant) (B : List Byte) (f : DecodedFrame), decodeFrame cfg v B = .ok f →
    1 ≤ f.functionCode.toNat ∧ f.functionCode.toNat ≤ 127 ∧ (f.crc.isSome = true ↔ v ≠ .tcp)

/-! ### The commands -/

/-- R26, R36, R37, R39: every command, issued while no decode is pending, is accepted: VARIANT is its variant, BUSY is 1, VALID is 0, the
result registers hold unspecified values; nothing else of the instance changes, no other instance does, and neither does what the host has
still to do. -/
def Obligations.CommandAccepted : Prop :=
  ∀ (i : Instr) (s : State), s.inst.busy = false → ∃ t, exec i s = .next t
    ∧ t.inst.variant = i.variant ∧ t.inst.busy = true ∧ t.inst.valid = false
    ∧ t.inst.cfg = s.inst.cfg ∧ t.inst.inLen = s.inst.inLen ∧ (∀ k, t.inst.inBuf.read k = s.inst.inBuf.read k)
    ∧ t.inst.inBuf = s.inst.inBuf ∧ (∀ k, t.inst.dataByte k = none)
    ∧ t.inst.faults = s.inst.faults ∧ t.inst.refused = s.inst.refused ∧ t.inst.reads = s.inst.reads ∧ t.inst.owner = s.inst.owner
    ∧ t.peers = s.peers ∧ t.program = s.program ∧ t.line = s.line

/-- R142, R128: every command, issued while a decode is pending, records HostWriteWhileBusy with the line in progress, and changes nothing
else. -/
def Obligations.CommandWhileBusy : Prop :=
  ∀ (i : Instr) (s : State), s.inst.busy = true → ∃ fs, exec i s = .next { s with inst := { s.inst with faults := fs } }
    ∧ (⟨.hostWriteWhileBusy, s.line⟩ : FaultRecord) ∈ fs ∧ ∀ r, r ∈ fs ↔ r = ⟨.hostWriteWhileBusy, s.line⟩ ∨ r ∈ s.inst.faults

/-- R97, R95: DECODE.RTU, issued while no decode is pending, and its decoder step leave the result of the RTU decode of IN_BUF[0..IN_LEN)
in the result registers. -/
def Obligations.RtuCommandResult : Prop :=
  ∀ s : State, s.inst.busy = false → ∃ t B, exec .decodeRtu s = .next t ∧ s.inst.seesFrame B
    ∧ (decoderStep t).inst.shows
        (if B.length < 4 then .err .invalidLength
         else if ¬(1 ≤ (byteAt B 1).toNat ∧ (byteAt B 1).toNat ≤ 127) then .err .invalidFunctionCode
         else if s.inst.cfg.checkCrc = true ∧ crc16 (bytesFromTo B 0 (B.length - 2)) ≠ le16 B (B.length - 2) then .err .invalidCrc
         else .ok ⟨byteAt B 0, byteAt B 1, bytesFromTo B 2 (B.length - 2), some (le16 B (B.length - 2))⟩)

/-- R105, R95: DECODE.TCP, issued while no decode is pending, and its decoder step leave the result of the TCP decode of IN_BUF[0..IN_LEN)
in the result registers. -/
def Obligations.TcpCommandResult : Prop :=
  ∀ s : State, s.inst.busy = false → ∃ t B, exec .decodeTcp s = .next t ∧ s.inst.seesFrame B
    ∧ (decoderStep t).inst.shows
        (if B.length < 8 then .err .invalidLength
         else if ¬(1 ≤ (byteAt B 7).toNat ∧ (byteAt B 7).toNat ≤ 127) then .err .invalidFunctionCode
         else if s.inst.cfg.strictLength = true ∧ (be16 B 4).toNat ≠ B.length - 6 then .err .invalidLength
         else .ok ⟨byteAt B 6, byteAt B 7, bytesFromTo B 8 B.length, none⟩)

/-- R114, R95: DECODE.RTUTCP, issued while no decode is pending, and its decoder step leave the result of the RTU-over-TCP decode of
IN_BUF[0..IN_LEN) in the result registers. -/
def Obligations.RtuTcpCommandResult : Prop :=
  ∀ s : State, s.inst.busy = false → ∃ t B, exec .decodeRtuTcp s = .next t ∧ s.inst.seesFrame B
    ∧ (decoderStep t).inst.shows
        (if B.length < 10 then .err .invalidLength
         else if ¬(1 ≤ (byteAt B 7).toNat ∧ (byteAt B 7).toNat ≤ 127) then .err .invalidFunctionCode
         else if s.inst.cfg.checkCrc = true ∧ crc16 (bytesFromTo B 6 (B.length - 2)) ≠ le16 B (B.length - 2) then .err .invalidCrc
         else if s.inst.cfg.strictLength = true ∧ (be16 B 4).toNat ≠ B.length - 6 then .err .invalidLength
         else .ok ⟨byteAt B 6, byteAt B 7, bytesFromTo B 8 (B.length - 2), some (le16 B (B.length - 2))⟩)

/-- R59: "It writes only STATUS, FRAME, DATA_LEN, CRC and DATA_BUF. It never writes CMD, IN_LEN or IN_BUF." The model's own records and
the other instances do not change either. -/
def Obligations.DecoderStepFrame : Prop :=
  ∀ s : State, let t := decoderStep s
    t.inst.variant = s.inst.variant ∧ t.inst.inLen = s.inst.inLen ∧ (∀ k, t.inst.inBuf.read k = s.inst.inBuf.read k)
    ∧ t.inst.inBuf = s.inst.inBuf ∧ t.inst.cfg = s.inst.cfg ∧ t.inst.faults = s.inst.faults ∧ t.inst.refused = s.inst.refused
    ∧ t.inst.reads = s.inst.reads ∧ t.inst.owner = s.inst.owner ∧ t.peers = s.peers ∧ t.program = s.program ∧ t.line = s.line

/-- R95, R94: with BUSY = 1 the decoder step stores Decode(cfg, VARIANT, B) for the frame B of IN_LEN bytes in IN_BUF; "When STATUS.BUSY =
0, the decoder has no step." -/
def Obligations.DecoderStepStores : Prop :=
  ∀ s : State, (s.inst.busy = true → ∃ B, s.inst.seesFrame B ∧
      (decoderStep s).inst.shows (decodeFrame s.inst.cfg s.inst.variant B))
    ∧ (s.inst.busy = false → decoderStep s = s)

/-- R21, R41: the result of a command depends on the configuration, the command, IN_LEN and IN_BUF[0..IN_LEN) alone: two idle instances
that agree on these, whatever else they hold and whatever ran before, get the same result. -/
def Obligations.DecodesAreStateless : Prop :=
  ∀ (i : Instr) (s u : State), s.inst.busy = false → u.inst.busy = false → s.inst.cfg = u.inst.cfg → s.inst.inLen = u.inst.inLen →
    (∀ k, k < s.inst.inLen.toNat → ∃ b, s.inst.inBuf.read k = some b ∧ u.inst.inBuf.read k = some b) →
    ∃ t v, exec i s = .next t ∧ exec i u = .next v ∧ (decoderStep t).inst.sameResult (decoderStep v).inst

/-! ### Registers, buffers and the bus -/

/-- R26 to R34: the fields of each register's value stand at the bits the tables give, and every other bit is 0. -/
def Obligations.RegisterLayout : Prop :=
  ∀ x : Instance, x.cfg.wellFormed = true →
    (x.regWord .cmd).toNat = x.variant.number.toNat
    ∧ (x.regWord .inLen).toNat = x.inLen.toNat
    ∧ (x.regWord .status).toNat = x.busy.toNat + 2 * x.valid.toNat + 4 * x.code.toNat
    ∧ (x.regWord .frame).toNat = x.address.toNat + 256 * x.functionCode.toNat
    ∧ (x.regWord .dataLen).toNat = x.dataLen.toNat
    ∧ (x.regWord .crc).toNat = x.crcValue.toNat + 65536 * x.crcPresent.toNat
    ∧ (x.regWord .param).toNat = x.cfg.strictLength.toNat + 2 * x.cfg.checkCrc.toNat + 65536 * x.cfg.maxLen

/-- R47, R48, R49, R50: what an access of w bytes at block offset `off` names, or why it is refused. -/
def Obligations.OffsetMap : Prop :=
  ∀ m off w : Nat, m ≤ 4096 →
    (off < 0x1C → w ≠ 4 → targetOf m off w = .error .accessWidth)
    ∧ (off < 0x1C → w = 4 → off % 4 ≠ 0 → targetOf m off w = .error .misaligned)
    ∧ (off < 0x1C → w = 4 → off % 4 = 0 → ∃ r, targetOf m off w = .ok (.reg r) ∧ regOffset r = off)
    ∧ (0x1C ≤ off → off < 0x1000 → targetOf m off w = .error .unmapped)
    ∧ (0x1000 ≤ off → off < 0x1000 + m → targetOf m off w = if w = 1 then .ok (.inBuf (off - 0x1000)) else .error .accessWidth)
    ∧ (0x1000 + m ≤ off → off < 0x2000 → targetOf m off w = .error .unmapped)
    ∧ (0x2000 ≤ off → off < 0x2000 + m → targetOf m off w = if w = 1 then .ok (.dataBuf (off - 0x2000)) else .error .accessWidth)
    ∧ (0x2000 + m ≤ off → targetOf m off w = .error .unmapped)

/-- R51, R39: a register read returns the register's value; while a decode is pending the result fields are free, and only BUSY, VALID and
the reserved bits of those registers are fixed. It has no side effect: only the model's counter of free values may change. -/
def Obligations.RegisterRead : Prop :=
  ∀ (r : Reg) (s : State), (∃ d, (readTarget (.reg r) s).1 = { s with draws := d })
    ∧ (s.inst.busy = false → readTarget (.reg r) s = (s, s.inst.regWord r))
    ∧ (r = .cmd ∨ r = .inLen ∨ r = .param → readTarget (.reg r) s = (s, s.inst.regWord r))
    ∧ (r = .status → (readTarget (.reg r) s).2.getLsbD 0 = s.inst.busy ∧ (readTarget (.reg r) s).2.getLsbD 1 = s.inst.valid
        ∧ (readTarget (.reg r) s).2.extractLsb' 4 28 = 0)
    ∧ (r = .frame → (readTarget (.reg r) s).2.extractLsb' 16 16 = 0)
    ∧ (r = .dataLen → (readTarget (.reg r) s).2.extractLsb' 13 19 = 0)
    ∧ (r = .crc → (readTarget (.reg r) s).2.extractLsb' 17 15 = 0)

/-- R54, R33, R39: a buffer read returns the byte that is there: in IN_BUF what the host wrote, also while a decode is pending; in
DATA_BUF what the last decode stored, when none is pending. It has no side effect: only the model's counter of free values may change. -/
def Obligations.BufferRead : Prop :=
  ∀ (i : Nat) (s : State),
    (∃ d, (readTarget (.inBuf i) s).1 = { s with draws := d }) ∧ (∃ d, (readTarget (.dataBuf i) s).1 = { s with draws := d })
    ∧ (∀ b, s.inst.inBuf.read i = some b → readTarget (.inBuf i) s = (s, b.setWidth 32))
    ∧ (∀ b, s.inst.busy = false → s.inst.dataBuf.read i = some b → readTarget (.dataBuf i) s = (s, b.setWidth 32))

/-- R26: what a host write of w to CMD does, in the rule's order, and what a read of CMD returns. -/
def Obligations.CmdWrite : Prop :=
  ∀ (w : Word) (s : State),
    (s.inst.busy = true → (settle s (writeTarget (.reg .cmd) w s)).1 = s.recordFault .hostWriteWhileBusy)
    ∧ (s.inst.busy = false → w.extractLsb' 0 2 = 3 ∨ w.extractLsb' 2 30 ≠ 0 →
        writeTarget (.reg .cmd) w s = .refused .reservedCommand)
    ∧ (s.inst.busy = false → w.extractLsb' 0 2 ≠ 3 → w.extractLsb' 2 30 = 0 → ∃ t, writeTarget (.reg .cmd) w s = .done t none
        ∧ t.inst.variant.number = w.extractLsb' 0 2 ∧ t.inst.busy = true ∧ t.inst.valid = false
        ∧ (readTarget (.reg .cmd) t).2 = w)

/-- R27: what a host write of w to IN_LEN does, in the rule's order; and over the bus (R144) an accepted one, by a host agent of the
instance, takes effect at once, returns no value and changes nothing else (the model's note of the host apart, log 10). -/
def Obligations.InLenWrite : Prop :=
  ∀ (w : Word) (s : State),
    (s.inst.busy = true → writeTarget (.reg .inLen) w s = .faulted .hostWriteWhileBusy)
    ∧ (s.inst.busy = false → w.extractLsb' 13 19 ≠ 0 ∨ s.inst.cfg.maxLen < (w.extractLsb' 0 13).toNat →
        writeTarget (.reg .inLen) w s = .refused .lengthOutOfRange)
    ∧ (s.inst.busy = false → w.extractLsb' 13 19 = 0 → (w.extractLsb' 0 13).toNat ≤ s.inst.cfg.maxLen →
        writeTarget (.reg .inLen) w s = .done { s with inst := { s.inst with inLen := w.extractLsb' 0 13 } } none
        ∧ ∀ agent wd addr off, s.inst.admits agent → targetOf s.inst.cfg.maxLen off wd = .ok (.reg .inLen) →
          hostAccess agent (.write wd addr w) off s =
            ({ s with inst := { s.inst with inLen := w.extractLsb' 0 13, owner := some agent } }, none))

/-- R53, R142: a write to IN_BUF[i] faults while a decode is pending and otherwise stores v[7:0] there and nowhere else; and over the bus
(R144) an accepted one, by a host agent of the instance, takes effect at once, returns no value and changes nothing else (the model's note
of the host apart, log 10). -/
def Obligations.InBufWrite : Prop :=
  ∀ (i : Nat) (w : Word) (s : State),
    (s.inst.busy = true → writeTarget (.inBuf i) w s = .faulted .hostWriteWhileBusy)
    ∧ (s.inst.busy = false → ∃ m : Memory, writeTarget (.inBuf i) w s = .done { s with inst := { s.inst with inBuf := m } } none
        ∧ m.read i = some (w.extractLsb' 0 8) ∧ (∀ j, j ≠ i → m.read j = s.inst.inBuf.read j)
        ∧ ∀ agent wd addr off, s.inst.admits agent → targetOf s.inst.cfg.maxLen off wd = .ok (.inBuf i) →
          hostAccess agent (.write wd addr w) off s = ({ s with inst := { s.inst with inBuf := m, owner := some agent } }, none))

/-- R52, R53, R127: a write to a read-only register or to DATA_BUF is refused, whatever is written and whether or not a decode is pending.
-/
def Obligations.ReadOnlyWriteRefused : Prop :=
  ∀ (w : Word) (s : State),
    writeTarget (.reg .status) w s = .refused .readOnlyWrite ∧ writeTarget (.reg .frame) w s = .refused .readOnlyWrite
    ∧ writeTarget (.reg .dataLen) w s = .refused .readOnlyWrite ∧ writeTarget (.reg .crc) w s = .refused .readOnlyWrite
    ∧ writeTarget (.reg .param) w s = .refused .readOnlyWrite ∧ ∀ i, writeTarget (.dataBuf i) w s = .refused .readOnlyWrite

/-- R56: "A write to IN_BUF or IN_LEN is idempotent: writing the same value twice leaves the same state as writing it once." -/
def Obligations.WritesAreIdempotent : Prop :=
  ∀ (t : Target) (w : Word) (s u : State), (t = .reg .inLen ∨ ∃ i, t = .inBuf i) → writeTarget t w s = .done u none →
    writeTarget t w u = .done u none

/-- R142, R128: a write to CMD, IN_LEN or IN_BUF by the instance's host while a decode is pending adds HostWriteWhileBusy, with the line
in progress, to FAULTS, changes nothing else and returns no value. -/
def Obligations.WriteWhileBusyFaults : Prop :=
  ∀ (agent wd addr off : Nat) (w : Word) (t : Target) (s : State), s.inst.busy = true → s.inst.owner = some agent →
    targetOf s.inst.cfg.maxLen off wd = .ok t → (t = .reg .cmd ∨ t = .reg .inLen ∨ ∃ i, t = .inBuf i) →
    hostAccess agent (.write wd addr w) off s =
      ({ s with inst := { s.inst with faults := s.inst.faults.insert ⟨.hostWriteWhileBusy, s.line⟩ } }, none)

/-- R127: in which order the rules that an access breaks are reported: first the address, the width and the alignment, then a read-only
location, then the fault, and last the value written. -/
def Obligations.ReportOrder : Prop :=
  ∀ (wd addr off : Nat) (w : Word) (s : State),
    (∀ r, targetOf s.inst.cfg.maxLen off wd = .error r →
      blockAccess (.write wd addr w) off s = .refused r ∧ blockAccess (.read wd addr) off s = .refused r)
    ∧ (∀ t, targetOf s.inst.cfg.maxLen off wd = .ok t → t ≠ .reg .cmd → t ≠ .reg .inLen → (∀ i, t ≠ .inBuf i) →
        blockAccess (.write wd addr w) off s = .refused .readOnlyWrite)
    ∧ (∀ t, targetOf s.inst.cfg.maxLen off wd = .ok t → (t = .reg .cmd ∨ t = .reg .inLen ∨ ∃ i, t = .inBuf i) → s.inst.busy = true →
        settle s (blockAccess (.write wd addr w) off s) = (s.recordFault .hostWriteWhileBusy, none))
    ∧ (targetOf s.inst.cfg.maxLen off wd = .ok (.reg .cmd) → s.inst.busy = false → 3 ≤ w.toNat →
        blockAccess (.write wd addr w) off s = .refused .reservedCommand)
    ∧ (targetOf s.inst.cfg.maxLen off wd = .ok (.reg .inLen) → s.inst.busy = false → s.inst.cfg.maxLen ≤ 4096 →
        s.inst.cfg.maxLen < w.toNat → blockAccess (.write wd addr w) off s = .refused .lengthOutOfRange)

/-- R129: a refused access sets REFUSED, changes no other state (the model's note of the instance's host apart, log 10) and returns no
value, whether it is refused for where it goes, for a write's location or value, or for its agent (R67). -/
def Obligations.RefusalSetsRefused : Prop :=
  ∀ (agent off : Nat) (a : Access) (s : State),
    (s.inst.admits agent → ∀ r, targetOf s.inst.cfg.maxLen off a.width = .error r →
      hostAccess agent a off s = ({ s with inst := { s.inst with refused := true, owner := some agent } }, none))
    ∧ (s.inst.admits agent → ∀ wd addr w t r, a = .write wd addr w → targetOf s.inst.cfg.maxLen off wd = .ok t →
      writeTarget t w s = .refused r →
      hostAccess agent a off s = ({ s with inst := { s.inst with refused := true, owner := some agent } }, none))
    ∧ (∀ b, s.inst.owner = some b → b ≠ agent → hostAccess agent a off s = ({ s with inst := { s.inst with refused := true } }, none))

/-- R51, R54, R142, R147: a read by a host agent of the instance, the first access or a later one, of any location that exists is never a
fault or a refusal, also while a decode is pending. It returns the value that the location reads as (RegisterRead, BufferRead), which joins
the host's reads; no register, no buffer byte and no record changes (the model's note of the host, log 10, and its counter of free values,
log 4, apart). -/
def Obligations.ReadsHaveNoSideEffect : Prop :=
  ∀ (agent wd addr off : Nat) (t : Target) (s : State), s.inst.admits agent → targetOf s.inst.cfg.maxLen off wd = .ok t →
    let v := (readTarget t s).2
    hostAccess agent (.read wd addr) off s =
      ({ s with
          inst := { s.inst with reads := s.inst.reads ++ [v], owner := some agent }
          draws := (readTarget t s).1.draws },
        some v)

/-! ### Reset -/

/-- R44, R138: reset sets every register to 0 and leaves both buffers unspecified; PARAM, FAULTS and REFUSED do not change. R139: a
pending decode is discarded: the decoder has no step. -/
def Obligations.ResetEvent : Prop :=
  ∀ s : State, let t := s.hardReset
    (∀ r, r ≠ .param → t.inst.regWord r = 0) ∧ t.inst.regWord .param = s.inst.regWord .param ∧ t.inst.cfg = s.inst.cfg
    ∧ (∀ i, t.inst.inBuf.read i = none) ∧ (∀ i, t.inst.dataByte i = none)
    ∧ t.inst.faults = s.inst.faults ∧ t.inst.refused = s.inst.refused ∧ decoderStep t = t ∧ t.peers = s.peers

/-- R44, R140: the initial state has every register 0, both buffers unspecified, FAULTS empty and REFUSED false, and is idle. The
configuration, the empty program and the counters are the model's (log 2, log 3, log 4, log 9) and are not part of this. -/
def Obligations.InitialState : Prop :=
  (∀ r, r ≠ .param → State.reset.inst.regWord r = 0) ∧ (∀ i, State.reset.inst.inBuf.read i = none)
    ∧ (∀ i, State.reset.inst.dataByte i = none) ∧ State.reset.inst.faults = [] ∧ State.reset.inst.refused = false
    ∧ State.reset.inst.busy = false ∧ State.reset.inst.valid = false

/-! ### Steps -/

/-- R26, R60, R65: when no decoder step is due and the next line of the host program writes a word that decodes to `i` to CMD of the
followed instance, step is exec of `i`, in the state in which that line is begun (its own number, the lines after it left to do, one event
passed, and its agent the instance's host). The second part says the same of `withFetchWord`, whose host and line are the model's (log 9).
-/
def Obligations.StepRunsCommand : Prop :=
  (∀ (i : Instr) (w : Word) (s : State) (l : HostLine) (rest : List HostLine), decode w = .ok i → s.nextDecoder = none →
    s.program = l :: rest → l.op = .access (.write 4 s.inst.cfg.base w) → covers s.inst.cfg s.inst.cfg.base = true →
    s.inst.admits l.agent →
    step s = exec i { s.beginLine l rest with inst := { (s.beginLine l rest).inst with owner := some l.agent } })
  ∧ (∀ (i : Instr) (s : State), covers s.inst.cfg s.inst.cfg.base = true →
    step (s.withFetchWord 32 (encode i).toNat) =
      exec i { s with
        inst := { s.inst with owner := some (s.inst.owner.getD 0) }, program := [], line := s.line + 1 })

/-- R60, R84, R85: when no decoder step is due and the next line of the program has a bus access to do (an access of its own, or the read
that `wait` or `result` does next), step is that access, in the state in which the line is begun, and leaves to do what the line has left
(R85) and the lines after it. An access to an address of the followed instance is that instance's host access at its block offset (R46);
one to an address of no instance returns no value and sets REFUSED, of the followed instance or of the one that the agent serves, and
nothing else (the model's choice, log 11, log 26). -/
def Obligations.StepRunsLine : Prop :=
  ∀ (s : State) (l : HostLine) (rest : List HostLine) (a : Access), s.nextDecoder = none → s.program = l :: rest →
    opNow l.op = some a →
    let u := s.beginLine l rest
    let r := u.busAccess l.agent a
    step s = .next { r.1 with program := (opLater r.2 l.op).map (fun o => ⟨l.line, l.agent, o⟩) ++ rest }
    ∧ (s.place a.addr = .focus → r = hostAccess l.agent a (a.addr - s.inst.cfg.base) u)
    ∧ (s.place a.addr = .nowhere → s.home l.agent = .focus → r = ({ u with inst := { u.inst with refused := true } }, none))
    ∧ (∀ k p, s.place a.addr = .nowhere → s.home l.agent = .peer k → u.peers[k]? = some p →
        r = ({ u with peers := u.peers.set k { p with refused := true } }, none))

/-- R22, R130, R148: no state stops the machine: every step answers a next state. -/
def Obligations.StepAlwaysAnswers : Prop := ∀ s : State, ∃ t, step s = .next t

/-- R95, R60, R145: when the pending decode's step is due (its delay has run out, or the host has nothing left to do: the model's
schedule, log 3), step is the decoder step, one event later for every instance. R137, R140: when nothing is pending and nothing is left to
do, the block is idle: step changes nothing (log 15). -/
def Obligations.StepRunsDecoder : Prop :=
  ∀ s : State, (s.inst.busy = true → s.program = [] ∨ s.inst.delay = 0 → step s = .next (decoderStep s.tick))
    ∧ (s.inst.busy = false → (∀ p ∈ s.peers, p.busy = false) → s.program = [] → step s = .next s)

/-- R138, R139, R147: when no decoder step is due and the next line of the program is a reset of the followed instance, the step resets
it: the line is gone, one event has passed for every instance, and no other instance changes. -/
def Obligations.StepResets : Prop :=
  ∀ (s : State) (l : HostLine) (rest : List HostLine), s.nextDecoder = none → s.program = l :: rest →
    l.op = .reset s.inst.cfg.base → covers s.inst.cfg s.inst.cfg.base = true →
    step s = .next { s with
      inst := s.inst.hardReset, peers := s.peers.map Instance.tick, program := rest, line := l.line }

/-- R28, R33, R37, R38, R40, R44, R122: every step keeps the invariant. -/
def Obligations.StepKeepsInv : Prop := ∀ s t : State, s.Inv → step s = .next t → t.Inv

/-- The invariant holds at reset (the configuration is the model's choice, log 2). -/
def Obligations.ResetHasInv : Prop := State.reset.Inv

/-- R45: "Neither is ever cleared, not by reset and not by any later step", for every instance. -/
def Obligations.RecordsAreNeverCleared : Prop :=
  ∀ s t : State, step s = .next t →
    (s.inst.faults ⊆ t.inst.faults ∧ (s.inst.refused = true → t.inst.refused = true))
    ∧ ∀ (k : Nat) (p : Instance), s.peers[k]? = some p → ∃ q, t.peers[k]? = some q ∧ p.faults ⊆ q.faults
        ∧ (p.refused = true → q.refused = true)

/-- R43: the configuration "is fixed for the life of an instance": no step changes any instance's, and no instance comes or goes. -/
def Obligations.ConfigurationIsFixed : Prop :=
  ∀ s t : State, step s = .next t → t.inst.cfg = s.inst.cfg ∧ t.peers.map Instance.cfg = s.peers.map Instance.cfg

/-- R36: BUSY goes from 1 to 0 only by the decoder step, which stores the result of the pending command, or by reset; and it goes from 0
to 1 only by an accepted CMD write, which clears VALID (R37). -/
def Obligations.BusyChangesOnlyBy : Prop :=
  ∀ s t : State, step s = .next t →
    (s.inst.busy = true → t.inst.busy = false →
      (∃ B, s.inst.seesFrame B ∧ t.inst.shows (decodeFrame s.inst.cfg s.inst.variant B)) ∨ t.inst = s.inst.hardReset)
    ∧ (s.inst.busy = false → t.inst.busy = true →
      ∃ l rest w, s.program = l :: rest ∧ l.op = .access (.write 4 s.inst.cfg.base w) ∧ decode w ≠ .error .reservedCommand
        ∧ t.inst.valid = false ∧ t.inst.variant.number = w.extractLsb' 0 2)

/-- R61 (the spec's own inference): from an accepted CMD write until its decoder step, the decoder's inputs do not change: a step from a
pending decode leaves CMD.VARIANT, IN_LEN and IN_BUF as they are, unless it is a reset, which leaves BUSY and VALID 0. -/
def Obligations.InputsFixedWhileBusy : Prop :=
  ∀ s t : State, s.inst.busy = true → step s = .next t → t.inst.busy = true ∨ t.inst.valid = true → t.inst.sameInputs s.inst

/-- R62 (the spec's own inference), R33: once VALID = 1, the result registers and DATA_BUF stay as they are until the next accepted
command or a reset, each of which clears VALID; a later host write to IN_BUF or IN_LEN does not change them. -/
def Obligations.ResultStaysUntilCommand : Prop :=
  ∀ s t : State, s.inst.valid = true → s.inst.busy = false → step s = .next t → t.inst.valid = true →
    t.inst.sameResult s.inst ∧ t.inst.busy = false

/-- R135, R67: instances share no state. A command changes no other instance. A step whose event is a bus access (of an access line, of a
`wait` or of a `result`), a reset or a decoder step at the followed instance changes no other instance, and one whose event is one of these
at another instance changes neither the followed one nor a third, but that one event passes for all. -/
def Obligations.InstancesAreIsolated : Prop :=
  (∀ (i : Instr) (s : State), ∃ t, exec i s = .next t ∧ t.peers = s.peers)
  ∧ (∀ (s : State) (l : HostLine) (rest : List HostLine), s.nextDecoder = none → s.program = l :: rest →
      (s.place (opAddr l.op) = .focus → ∃ t, step s = .next t ∧ t.peers = s.peers.map Instance.tick)
      ∧ (∀ k, s.place (opAddr l.op) = .peer k → ∃ t, step s = .next t ∧ t.inst = s.inst.tick
          ∧ ∀ j, j ≠ k → t.peers[j]? = (s.peers.map Instance.tick)[j]?))
  ∧ (∀ s : State, s.nextDecoder = some .focus → ∃ t, step s = .next t ∧ t.peers = s.peers.map Instance.tick)
  ∧ (∀ (s : State) (k : Nat), s.nextDecoder = some (.peer k) → ∃ t, step s = .next t ∧ t.inst = s.inst.tick
      ∧ ∀ j, j ≠ k → t.peers[j]? = (s.peers.map Instance.tick)[j]?)

/-- R135, R84, R85: an access to another instance does there exactly what it would do to it if it were the one followed; and so does the
step of a line whose bus access (its own, or that of a `wait` or a `result`) lies in another instance's window, one event later for
every instance. -/
def Obligations.PeersBehaveAlike : Prop :=
  (∀ (s : State) (agent : Nat) (a : Access) (k : Nat) (p : Instance), s.place a.addr = .peer k → s.peers[k]? = some p →
    let t := hostAccess agent a (a.addr - p.cfg.base) { s with inst := p }
    s.busAccess agent a = ({ t.1 with inst := s.inst, peers := s.peers.set k t.1.inst }, t.2))
  ∧ ∀ (s : State) (l : HostLine) (rest : List HostLine) (a : Access) (k : Nat) (p : Instance), s.nextDecoder = none →
      s.program = l :: rest → opNow l.op = some a → s.place a.addr = .peer k → s.peers[k]? = some p →
      let t := hostAccess l.agent a (a.addr - p.cfg.base) { s.beginLine l rest with inst := p.tick }
      step s = .next { t.1 with
        inst := s.inst.tick
        peers := (s.peers.map Instance.tick).set k t.1.inst
        program := (opLater t.2 l.op).map (fun o => ⟨l.line, l.agent, o⟩) ++ rest }

/-- R135, R95, R138: a step whose event is the decoder step of another instance, or a reset of it, changes that instance as the decoder step
(with the model's counter of free values, log 4) or the reset would change it if it were the one followed, one event later, and changes
every other instance only by the event passed. -/
def Obligations.PeerEvents : Prop :=
  (∀ (s : State) (k : Nat) (p : Instance), s.nextDecoder = some (.peer k) → s.peers[k]? = some p →
    let t := decoderStep { s.tick with inst := p.tick }
    p.busy = true ∧ step s = .next { s with
      inst := s.inst.tick
      peers := (s.peers.map Instance.tick).set k t.inst
      draws := t.draws })
  ∧ ∀ (s : State) (l : HostLine) (rest : List HostLine) (base k : Nat) (p : Instance), s.nextDecoder = none →
      s.program = l :: rest → l.op = .reset base → s.place base = .peer k → s.peers[k]? = some p →
      step s = .next { s with
        inst := s.inst.tick
        peers := (s.peers.map Instance.tick).set k p.hardReset
        program := rest
        line := l.line }

/-! ### The end of a run -/

/-- R147: a run on the followed instance "ends when the host has carried out its last line and STATUS.BUSY = 0": while its host has a line
left, or BUSY = 1, it has not ended, and a line that another agent has to carry out at another instance makes no difference. The run "is
good when it ends with FAULTS empty and REFUSED false". Once it has ended, the next step changes neither the run's observation nor what
makes it good: the other instances' events only pass. (Which lines belong to a run is log 25.) -/
def Obligations.RunEnds : Prop :=
  (∀ s : State, s.ended → s.inst.busy = false ∧ ∀ l ∈ s.program, s.inst.owner ≠ some l.agent)
  ∧ (∀ s : State, s.program = [] → s.inst.busy = false → s.ended)
  ∧ (∀ (s : State) (l : HostLine) (k : Nat), s.inst.owner ≠ some l.agent → s.place (opAddr l.op) = .peer k →
      (({ s with program := l :: s.program } : State).ended ↔ s.ended))
  ∧ (∀ s : State, s.good ↔ s.ended ∧ s.inst.faults = [] ∧ s.inst.refused = false)
  ∧ ∀ s t : State, s.ended → step s = .next t → t.inst.observation = s.inst.observation ∧ t.inst.busy = false
      ∧ t.inst.faults = s.inst.faults ∧ t.inst.refused = s.inst.refused

/-- R145: "Once STATUS.BUSY = 1, the decoder step (40_common.md rule R95) happens after finitely many host accesses, unless a reset comes
first": within one step more than the pending decode's delay, BUSY is 0. The bound is the model's (log 3). -/
def Obligations.PendingDecodeEnds : Prop :=
  ∀ s : State, s.inst.busy = true → ∃ k t, k ≤ s.inst.delay + 1 ∧ Sys2Proof.core.run k s = .next t ∧ t.inst.busy = false

/-- R85, R145, and the model's schedule (log 3, log 17): a host's `wait` at the followed instance ends: from a pending decode (of an
instance that meets the invariant, which rules out BUSY and VALID both 1) it is carried out to its end, and then VALID is 1 and what comes
after it is left to do. -/
def Obligations.WaitEnds : Prop :=
  ∀ (s : State) (n agent : Nat) (rest : List HostLine), s.inst.Inv → s.inst.busy = true → s.inst.admits agent →
    s.program = ⟨n, agent, .wait s.inst.cfg.base⟩ :: rest →
    ∃ k t, Sys2Proof.core.run k s = .next t ∧ t.program = rest ∧ t.inst.valid = true ∧ t.inst.busy = false

/-- R85: the pseudo-instructions and their expansions: each command is a write of its word to CMD, `frame` writes its bytes to IN_BUF one
by one and then its length to IN_LEN, `wait` goes on until bit 1 of the value read is 1, and `result` reads STATUS, FRAME, DATA_LEN, CRC
and then as many bytes of DATA_BUF as the DATA_LEN value read says. -/
def Obligations.PseudoInstructions : Prop :=
  ∀ base : Nat,
    expandLine base (.decode .decodeRtu) = [.access (.write 4 base 0)]
    ∧ expandLine base (.decode .decodeTcp) = [.access (.write 4 base 1)]
    ∧ expandLine base (.decode .decodeRtuTcp) = [.access (.write 4 base 2)]
    ∧ (∀ bs : List Byte, (expandLine base (.frame bs)).length = bs.length + 1
        ∧ (∀ i b, bs[i]? = some b → (expandLine base (.frame bs))[i]? = some (HostOp.access (.write 1 (base + (0x1000 + i)) (b.setWidth 32))))
        ∧ (expandLine base (.frame bs))[bs.length]? = some (HostOp.access (.write 4 (base + 4) (BitVec.ofNat 32 bs.length))))
    ∧ opNow (.wait base) = some (.read 4 (base + 8))
    ∧ (∀ v : Word, opLater (some v) (.wait base) = if v.getLsbD 1 = true then [] else [.wait base])
    ∧ opNow (.result base) = some (.read 4 (base + 8))
    ∧ (∀ v : Word, opLater (some v) (.result base) = [.access (.read 4 (base + 0xC)), .resultTail base])
    ∧ opNow (.resultTail base) = some (.read 4 (base + 0x10))
    ∧ (∀ v : Word, ∃ ops : List HostOp, opLater (some v) (.resultTail base) = HostOp.access (.read 4 (base + 0x14)) :: ops
        ∧ ops.length = v.toNat ∧ ∀ i, i < v.toNat → ops[i]? = some (HostOp.access (.read 1 (base + (0x2000 + i)))))
end

