-- ==== Sys2Proof/Laws/Frames.lean ====
section
/-! SUPPORT. What each core function can answer, said once (spec/40_common.md R92). -/

namespace Sys2Proof.Machine

@[simp] theorem bytesFromTo_length (frame : List Byte) (a b : Nat) :
    (bytesFromTo frame a b).length = min (b - a) (frame.length - a) := by
  simp [bytesFromTo]

/-- All that DECODE.RTU can answer, in the order of its checks (R92, R97). -/
theorem decodeRtu_cases (cfg : Config) (frame : List Byte) :
    (frame.length < 4 ∧ decodeRtu cfg frame = .err .invalidLength)
    ∨ (4 ≤ frame.length ∧ fcValid (byteAt frame 1) = false ∧ decodeRtu cfg frame = .err .invalidFunctionCode)
    ∨ (4 ≤ frame.length ∧ fcValid (byteAt frame 1) = true ∧ cfg.checkCrc = true
        ∧ crc16 (bytesFromTo frame 0 (frame.length - 2)) ≠ le16 frame (frame.length - 2) ∧ decodeRtu cfg frame = .err .invalidCrc)
    ∨ (4 ≤ frame.length ∧ fcValid (byteAt frame 1) = true
        ∧ (cfg.checkCrc = true → crc16 (bytesFromTo frame 0 (frame.length - 2)) = le16 frame (frame.length - 2))
        ∧ decodeRtu cfg frame = .ok
          { address := byteAt frame 0, functionCode := byteAt frame 1, data := bytesFromTo frame 2 (frame.length - 2),
            crc := some (le16 frame (frame.length - 2)) }) := by
  unfold decodeRtu
  split
  · exact .inl ⟨‹_›, rfl⟩
  · right
    split
    · left; simp_all
    · right
      split
      · left; simp_all
      · right; simp_all

/-- All that DECODE.TCP can answer, in the order of its checks (R92, R105). -/
theorem decodeTcp_cases (cfg : Config) (frame : List Byte) :
    (frame.length < 8 ∧ decodeTcp cfg frame = .err .invalidLength)
    ∨ (8 ≤ frame.length ∧ fcValid (byteAt frame 7) = false ∧ decodeTcp cfg frame = .err .invalidFunctionCode)
    ∨ (8 ≤ frame.length ∧ fcValid (byteAt frame 7) = true ∧ lengthFieldRejected cfg frame = true
        ∧ decodeTcp cfg frame = .err .invalidLength)
    ∨ (8 ≤ frame.length ∧ fcValid (byteAt frame 7) = true ∧ lengthFieldRejected cfg frame = false
        ∧ decodeTcp cfg frame = .ok
          { address := byteAt frame 6, functionCode := byteAt frame 7, data := bytesFromTo frame 8 frame.length, crc := none }) := by
  unfold decodeTcp
  split
  · exact .inl ⟨‹_›, rfl⟩
  · right
    split
    · left; simp_all
    · right
      split
      · left; simp_all
      · right; simp_all

/-- All that DECODE.RTUTCP can answer: the outer check, what the inner RTU decode answers, or the strict length check (R92, R114). -/
theorem decodeRtuTcp_cases (cfg : Config) (frame : List Byte) :
    (frame.length < 8 ∧ decodeRtuTcp cfg frame = .err .invalidLength)
    ∨ (8 ≤ frame.length ∧ decodeRtuTcp cfg frame = decodeRtu cfg (bytesFromTo frame 6 frame.length))
    ∨ (8 ≤ frame.length ∧ lengthFieldRejected cfg frame = true ∧ decodeRtuTcp cfg frame = .err .invalidLength) := by
  unfold decodeRtuTcp
  split
  · exact .inl ⟨‹_›, rfl⟩
  · right
    split
    · left; simp_all
    · split
      · right; simp_all
      · left; simp_all

end Sys2Proof.Machine
end

