-- ==== Sys2Proof/Laws/Memory.lean ====
section
/-! SUPPORT. Byte arrays: a read after a write, and that every operation keeps the canonical form. -/

namespace Sys2Proof.Machine

@[simp] theorem Memory.read_nil (i : Nat) : Memory.read [] i = none := rfl

/-- The byte written is the byte read back. -/
@[simp] theorem Memory.read_write_same (m : Memory) (i : Nat) (v : Byte) : Memory.read (Memory.write m i v) i = some v := by
  induction m with
  | nil => simp [Memory.write, Memory.read]
  | cons c m ih =>
    unfold Memory.write
    split
    · simp [Memory.read]
    · split
      · simp [Memory.read]
      · simp [Memory.read, *]

/-- A write leaves every other byte alone. -/
theorem Memory.read_write_other (m : Memory) {i j : Nat} (v : Byte) (h : j ≠ i) :
    Memory.read (Memory.write m i v) j = Memory.read m j := by
  induction m with
  | nil => simp [Memory.write, Memory.read, h]
  | cons c m ih =>
    unfold Memory.write
    split
    · simp [Memory.read, h]
    · split
      · next hc => subst hc; simp [Memory.read, h]
      · simp [Memory.read, ih]

/-- Every entry after a write is the one written or one that was there. -/
theorem Memory.mem_write {m : Memory} {i : Nat} {v : Byte} {c : Host.Cell} (h : c ∈ Memory.write m i v) : c = (i, v) ∨ c ∈ m := by
  induction m with
  | nil => simp [Memory.write] at h; exact .inl h
  | cons d m ih =>
    unfold Memory.write at h
    split at h
    · simpa using h
    · split at h
      · simp only [List.mem_cons] at h ⊢; tauto
      · simp only [List.mem_cons] at h ⊢; rcases h with h | h
        · exact .inr (.inl h)
        · rcases ih h with h | h <;> tauto

theorem Memory.write_within {m : Memory} {i n : Nat} {v : Byte} (hm : Memory.within m n) (hi : i < n) :
    Memory.within (Memory.write m i v) n := by
  intro c hc
  rcases Memory.mem_write hc with rfl | hc
  · exact hi
  · exact hm c hc

/-- A write keeps the canonical form. -/
theorem Memory.write_wf {m : Memory} {i : Nat} {v : Byte} (hm : Memory.wf m) : Memory.wf (Memory.write m i v) := by
  induction m with
  | nil => simp [Memory.write, Memory.wf]
  | cons c m ih =>
    obtain ⟨hc, hm'⟩ := List.pairwise_cons.1 hm
    unfold Memory.write
    split
    · next h =>
      refine List.pairwise_cons.2 ⟨fun k hk => ?_, hm⟩
      simp only [List.map_cons, List.mem_cons] at hk
      rcases hk with rfl | hk
      · exact h
      · exact Nat.lt_trans h (hc k hk)
    · split
      · next h => subst h; exact List.pairwise_cons.2 ⟨hc, hm'⟩
      · next h1 h2 =>
        refine List.pairwise_cons.2 ⟨fun k hk => ?_, ih hm'⟩
        obtain ⟨d, hd, rfl⟩ := List.mem_map.1 hk
        rcases Memory.mem_write hd with rfl | hd
        · simp only; omega
        · exact hc _ (List.mem_map_of_mem hd)

/-- The indexes of a stored run of bytes. -/
theorem Memory.holding_indexes (k : Nat) (bs : List Byte) : (Memory.holding k bs).map Prod.fst = List.range' k bs.length := by
  induction bs generalizing k with
  | nil => rfl
  | cons b bs ih => simp [Memory.holding, ih, List.range'_succ]

theorem Memory.holding_within (k : Nat) (bs : List Byte) : Memory.within (Memory.holding k bs) (k + bs.length) := by
  intro c hc
  have h : c.1 ∈ (Memory.holding k bs).map Prod.fst := List.mem_map_of_mem hc
  rw [Memory.holding_indexes, List.mem_range'] at h
  obtain ⟨i, hi, h⟩ := h
  omega

theorem Memory.holding_wf (k : Nat) (bs : List Byte) : Memory.wf (Memory.holding k bs) := by
  unfold Memory.wf
  rw [Memory.holding_indexes]
  exact List.pairwise_lt_range' (step := 1) (by omega)

/-- A stored run reads back byte by byte, and nothing else is defined. -/
theorem Memory.read_holding (k : Nat) (bs : List Byte) (i : Nat) :
    Memory.read (Memory.holding k bs) i = if k ≤ i then bs[i - k]? else none := by
  induction bs generalizing k with
  | nil => simp [Memory.holding]
  | cons b bs ih =>
    simp only [Memory.holding, Memory.read, ih]
    rcases Nat.lt_trichotomy i k with h | h | h
    · simp [Nat.ne_of_lt h, Nat.not_le.2 h, show ¬ k + 1 ≤ i by omega]
    · simp [h]
    · have : i - k = (i - (k + 1)) + 1 := by omega
      simp [show i ≠ k by omega, show k ≤ i by omega, show k + 1 ≤ i by omega, this]

@[simp] theorem inBytes_length (m : Memory) (d i n : Nat) : (inBytes m d i n).length = n := by
  induction n generalizing i with
  | zero => rfl
  | succ n ih => simp [inBytes, ih]

/-- The bytes of a frame (R30, R95; I12). -/
theorem inBytes_get (m : Memory) (d i n k : Nat) (hk : k < n) :
    (inBytes m d i n)[k]? = some ((m.read (i + k)).getD (Config.freeByte (d + (i + k)))) := by
  induction n generalizing i k with
  | zero => omega
  | succ n ih =>
    cases k with
    | zero => simp [inBytes]
    | succ k => simp [inBytes, ih (i + 1) k (by omega), show i + 1 + k = i + (k + 1) by omega]

end Sys2Proof.Machine
end

