-- ==== Sys2Proof/Laws/State.lean ====
section
/-! SUPPORT. What each operation on an instance, and each operation on the state, leaves in each field: one lemma for each field, true by
unfolding, so that no proof unfolds a record update. -/

namespace Sys2Proof.Machine

variable (x : Instance) (s : State)

/-! ### `Instance.unspecify` -/

@[simp] theorem Instance.unspecify_cfg (d : Nat) : (x.unspecify d).cfg = x.cfg := rfl
@[simp] theorem Instance.unspecify_variant (d : Nat) : (x.unspecify d).variant = x.variant := rfl
@[simp] theorem Instance.unspecify_inLen (d : Nat) : (x.unspecify d).inLen = x.inLen := rfl
@[simp] theorem Instance.unspecify_busy (d : Nat) : (x.unspecify d).busy = x.busy := rfl
@[simp] theorem Instance.unspecify_valid (d : Nat) : (x.unspecify d).valid = x.valid := rfl
@[simp] theorem Instance.unspecify_code (d : Nat) : (x.unspecify d).code = Config.freeCode d := rfl
@[simp] theorem Instance.unspecify_address (d : Nat) : (x.unspecify d).address = Config.freeAddress d := rfl
@[simp] theorem Instance.unspecify_functionCode (d : Nat) : (x.unspecify d).functionCode = Config.freeFunctionCode d := rfl
@[simp] theorem Instance.unspecify_dataLen (d : Nat) : (x.unspecify d).dataLen = Config.freeDataLen d := rfl
@[simp] theorem Instance.unspecify_crcValue (d : Nat) : (x.unspecify d).crcValue = Config.freeCrcValue d := rfl
@[simp] theorem Instance.unspecify_crcPresent (d : Nat) : (x.unspecify d).crcPresent = Config.freeCrcPresent d := rfl
@[simp] theorem Instance.unspecify_inBuf (d : Nat) : (x.unspecify d).inBuf = x.inBuf := rfl
@[simp] theorem Instance.unspecify_dataBuf (d : Nat) : (x.unspecify d).dataBuf = [] := rfl
@[simp] theorem Instance.unspecify_faults (d : Nat) : (x.unspecify d).faults = x.faults := rfl
@[simp] theorem Instance.unspecify_refused (d : Nat) : (x.unspecify d).refused = x.refused := rfl
@[simp] theorem Instance.unspecify_reads (d : Nat) : (x.unspecify d).reads = x.reads := rfl
@[simp] theorem Instance.unspecify_owner (d : Nat) : (x.unspecify d).owner = x.owner := rfl
@[simp] theorem Instance.unspecify_delay (d : Nat) : (x.unspecify d).delay = x.delay := rfl

/-! ### `Instance.accept` -/

@[simp] theorem Instance.accept_cfg (v : Variant) (d n : Nat) : (x.accept v d n).cfg = x.cfg := rfl
@[simp] theorem Instance.accept_variant (v : Variant) (d n : Nat) : (x.accept v d n).variant = v := rfl
@[simp] theorem Instance.accept_inLen (v : Variant) (d n : Nat) : (x.accept v d n).inLen = x.inLen := rfl
@[simp] theorem Instance.accept_busy (v : Variant) (d n : Nat) : (x.accept v d n).busy = true := rfl
@[simp] theorem Instance.accept_valid (v : Variant) (d n : Nat) : (x.accept v d n).valid = false := rfl
@[simp] theorem Instance.accept_code (v : Variant) (d n : Nat) : (x.accept v d n).code = Config.freeCode d := rfl
@[simp] theorem Instance.accept_address (v : Variant) (d n : Nat) : (x.accept v d n).address = Config.freeAddress d := rfl
@[simp] theorem Instance.accept_functionCode (v : Variant) (d n : Nat) : (x.accept v d n).functionCode = Config.freeFunctionCode d := rfl
@[simp] theorem Instance.accept_dataLen (v : Variant) (d n : Nat) : (x.accept v d n).dataLen = Config.freeDataLen d := rfl
@[simp] theorem Instance.accept_crcValue (v : Variant) (d n : Nat) : (x.accept v d n).crcValue = Config.freeCrcValue d := rfl
@[simp] theorem Instance.accept_crcPresent (v : Variant) (d n : Nat) : (x.accept v d n).crcPresent = Config.freeCrcPresent d := rfl
@[simp] theorem Instance.accept_inBuf (v : Variant) (d n : Nat) : (x.accept v d n).inBuf = x.inBuf := rfl
@[simp] theorem Instance.accept_dataBuf (v : Variant) (d n : Nat) : (x.accept v d n).dataBuf = [] := rfl
@[simp] theorem Instance.accept_faults (v : Variant) (d n : Nat) : (x.accept v d n).faults = x.faults := rfl
@[simp] theorem Instance.accept_refused (v : Variant) (d n : Nat) : (x.accept v d n).refused = x.refused := rfl
@[simp] theorem Instance.accept_reads (v : Variant) (d n : Nat) : (x.accept v d n).reads = x.reads := rfl
@[simp] theorem Instance.accept_owner (v : Variant) (d n : Nat) : (x.accept v d n).owner = x.owner := rfl
@[simp] theorem Instance.accept_delay (v : Variant) (d n : Nat) : (x.accept v d n).delay = n := rfl

/-! ### `Instance.commit` of a frame -/

@[simp] theorem Instance.commit_ok_cfg (f : DecodedFrame) : (x.commit (.ok f)).cfg = x.cfg := rfl
@[simp] theorem Instance.commit_ok_variant (f : DecodedFrame) : (x.commit (.ok f)).variant = x.variant := rfl
@[simp] theorem Instance.commit_ok_inLen (f : DecodedFrame) : (x.commit (.ok f)).inLen = x.inLen := rfl
@[simp] theorem Instance.commit_ok_busy (f : DecodedFrame) : (x.commit (.ok f)).busy = false := rfl
@[simp] theorem Instance.commit_ok_valid (f : DecodedFrame) : (x.commit (.ok f)).valid = true := rfl
@[simp] theorem Instance.commit_ok_code (f : DecodedFrame) : (x.commit (.ok f)).code = 0 := rfl
@[simp] theorem Instance.commit_ok_address (f : DecodedFrame) : (x.commit (.ok f)).address = f.address := rfl
@[simp] theorem Instance.commit_ok_functionCode (f : DecodedFrame) : (x.commit (.ok f)).functionCode = f.functionCode := rfl
@[simp] theorem Instance.commit_ok_dataLen (f : DecodedFrame) : (x.commit (.ok f)).dataLen = BitVec.ofNat 13 f.data.length := rfl
@[simp] theorem Instance.commit_ok_crcValue (f : DecodedFrame) : (x.commit (.ok f)).crcValue = crcValueOf f.crc := rfl
@[simp] theorem Instance.commit_ok_crcPresent (f : DecodedFrame) : (x.commit (.ok f)).crcPresent = crcPresentOf f.crc := rfl
@[simp] theorem Instance.commit_ok_inBuf (f : DecodedFrame) : (x.commit (.ok f)).inBuf = x.inBuf := rfl
@[simp] theorem Instance.commit_ok_dataBuf (f : DecodedFrame) : (x.commit (.ok f)).dataBuf = Memory.holding 0 f.data := rfl
@[simp] theorem Instance.commit_ok_faults (f : DecodedFrame) : (x.commit (.ok f)).faults = x.faults := rfl
@[simp] theorem Instance.commit_ok_refused (f : DecodedFrame) : (x.commit (.ok f)).refused = x.refused := rfl
@[simp] theorem Instance.commit_ok_reads (f : DecodedFrame) : (x.commit (.ok f)).reads = x.reads := rfl
@[simp] theorem Instance.commit_ok_owner (f : DecodedFrame) : (x.commit (.ok f)).owner = x.owner := rfl
@[simp] theorem Instance.commit_ok_delay (f : DecodedFrame) : (x.commit (.ok f)).delay = x.delay := rfl

/-! ### `Instance.commit` of an error -/

@[simp] theorem Instance.commit_err_cfg (k : ErrorKind) : (x.commit (.err k)).cfg = x.cfg := rfl
@[simp] theorem Instance.commit_err_variant (k : ErrorKind) : (x.commit (.err k)).variant = x.variant := rfl
@[simp] theorem Instance.commit_err_inLen (k : ErrorKind) : (x.commit (.err k)).inLen = x.inLen := rfl
@[simp] theorem Instance.commit_err_busy (k : ErrorKind) : (x.commit (.err k)).busy = false := rfl
@[simp] theorem Instance.commit_err_valid (k : ErrorKind) : (x.commit (.err k)).valid = true := rfl
@[simp] theorem Instance.commit_err_code (k : ErrorKind) : (x.commit (.err k)).code = errorCode k := rfl
@[simp] theorem Instance.commit_err_address (k : ErrorKind) : (x.commit (.err k)).address = 0 := rfl
@[simp] theorem Instance.commit_err_functionCode (k : ErrorKind) : (x.commit (.err k)).functionCode = 0 := rfl
@[simp] theorem Instance.commit_err_dataLen (k : ErrorKind) : (x.commit (.err k)).dataLen = 0 := rfl
@[simp] theorem Instance.commit_err_crcValue (k : ErrorKind) : (x.commit (.err k)).crcValue = 0 := rfl
@[simp] theorem Instance.commit_err_crcPresent (k : ErrorKind) : (x.commit (.err k)).crcPresent = false := rfl
@[simp] theorem Instance.commit_err_inBuf (k : ErrorKind) : (x.commit (.err k)).inBuf = x.inBuf := rfl
@[simp] theorem Instance.commit_err_dataBuf (k : ErrorKind) : (x.commit (.err k)).dataBuf = [] := rfl
@[simp] theorem Instance.commit_err_faults (k : ErrorKind) : (x.commit (.err k)).faults = x.faults := rfl
@[simp] theorem Instance.commit_err_refused (k : ErrorKind) : (x.commit (.err k)).refused = x.refused := rfl
@[simp] theorem Instance.commit_err_reads (k : ErrorKind) : (x.commit (.err k)).reads = x.reads := rfl
@[simp] theorem Instance.commit_err_owner (k : ErrorKind) : (x.commit (.err k)).owner = x.owner := rfl
@[simp] theorem Instance.commit_err_delay (k : ErrorKind) : (x.commit (.err k)).delay = x.delay := rfl

/-! ### `Instance.hardReset` -/

@[simp] theorem Instance.hardReset_cfg : (x.hardReset).cfg = x.cfg := rfl
@[simp] theorem Instance.hardReset_variant : (x.hardReset).variant = .rtu := rfl
@[simp] theorem Instance.hardReset_inLen : (x.hardReset).inLen = 0 := rfl
@[simp] theorem Instance.hardReset_busy : (x.hardReset).busy = false := rfl
@[simp] theorem Instance.hardReset_valid : (x.hardReset).valid = false := rfl
@[simp] theorem Instance.hardReset_code : (x.hardReset).code = 0 := rfl
@[simp] theorem Instance.hardReset_address : (x.hardReset).address = 0 := rfl
@[simp] theorem Instance.hardReset_functionCode : (x.hardReset).functionCode = 0 := rfl
@[simp] theorem Instance.hardReset_dataLen : (x.hardReset).dataLen = 0 := rfl
@[simp] theorem Instance.hardReset_crcValue : (x.hardReset).crcValue = 0 := rfl
@[simp] theorem Instance.hardReset_crcPresent : (x.hardReset).crcPresent = false := rfl
@[simp] theorem Instance.hardReset_inBuf : (x.hardReset).inBuf = [] := rfl
@[simp] theorem Instance.hardReset_dataBuf : (x.hardReset).dataBuf = [] := rfl
@[simp] theorem Instance.hardReset_faults : (x.hardReset).faults = x.faults := rfl
@[simp] theorem Instance.hardReset_refused : (x.hardReset).refused = x.refused := rfl
@[simp] theorem Instance.hardReset_reads : (x.hardReset).reads = x.reads := rfl
@[simp] theorem Instance.hardReset_owner : (x.hardReset).owner = x.owner := rfl
@[simp] theorem Instance.hardReset_delay : (x.hardReset).delay = 0 := rfl

/-! ### `Instance.addFault` -/

@[simp] theorem Instance.addFault_cfg (f : Fault) (l : Nat) : (x.addFault f l).cfg = x.cfg := rfl
@[simp] theorem Instance.addFault_variant (f : Fault) (l : Nat) : (x.addFault f l).variant = x.variant := rfl
@[simp] theorem Instance.addFault_inLen (f : Fault) (l : Nat) : (x.addFault f l).inLen = x.inLen := rfl
@[simp] theorem Instance.addFault_busy (f : Fault) (l : Nat) : (x.addFault f l).busy = x.busy := rfl
@[simp] theorem Instance.addFault_valid (f : Fault) (l : Nat) : (x.addFault f l).valid = x.valid := rfl
@[simp] theorem Instance.addFault_code (f : Fault) (l : Nat) : (x.addFault f l).code = x.code := rfl
@[simp] theorem Instance.addFault_address (f : Fault) (l : Nat) : (x.addFault f l).address = x.address := rfl
@[simp] theorem Instance.addFault_functionCode (f : Fault) (l : Nat) : (x.addFault f l).functionCode = x.functionCode := rfl
@[simp] theorem Instance.addFault_dataLen (f : Fault) (l : Nat) : (x.addFault f l).dataLen = x.dataLen := rfl
@[simp] theorem Instance.addFault_crcValue (f : Fault) (l : Nat) : (x.addFault f l).crcValue = x.crcValue := rfl
@[simp] theorem Instance.addFault_crcPresent (f : Fault) (l : Nat) : (x.addFault f l).crcPresent = x.crcPresent := rfl
@[simp] theorem Instance.addFault_inBuf (f : Fault) (l : Nat) : (x.addFault f l).inBuf = x.inBuf := rfl
@[simp] theorem Instance.addFault_dataBuf (f : Fault) (l : Nat) : (x.addFault f l).dataBuf = x.dataBuf := rfl
@[simp] theorem Instance.addFault_faults (f : Fault) (l : Nat) : (x.addFault f l).faults = x.faults.insert ⟨f, l⟩ := rfl
@[simp] theorem Instance.addFault_refused (f : Fault) (l : Nat) : (x.addFault f l).refused = x.refused := rfl
@[simp] theorem Instance.addFault_reads (f : Fault) (l : Nat) : (x.addFault f l).reads = x.reads := rfl
@[simp] theorem Instance.addFault_owner (f : Fault) (l : Nat) : (x.addFault f l).owner = x.owner := rfl
@[simp] theorem Instance.addFault_delay (f : Fault) (l : Nat) : (x.addFault f l).delay = x.delay := rfl

/-! ### `Instance.refuse` -/

@[simp] theorem Instance.refuse_cfg (r : Refusal) : (x.refuse r).cfg = x.cfg := rfl
@[simp] theorem Instance.refuse_variant (r : Refusal) : (x.refuse r).variant = x.variant := rfl
@[simp] theorem Instance.refuse_inLen (r : Refusal) : (x.refuse r).inLen = x.inLen := rfl
@[simp] theorem Instance.refuse_busy (r : Refusal) : (x.refuse r).busy = x.busy := rfl
@[simp] theorem Instance.refuse_valid (r : Refusal) : (x.refuse r).valid = x.valid := rfl
@[simp] theorem Instance.refuse_code (r : Refusal) : (x.refuse r).code = x.code := rfl
@[simp] theorem Instance.refuse_address (r : Refusal) : (x.refuse r).address = x.address := rfl
@[simp] theorem Instance.refuse_functionCode (r : Refusal) : (x.refuse r).functionCode = x.functionCode := rfl
@[simp] theorem Instance.refuse_dataLen (r : Refusal) : (x.refuse r).dataLen = x.dataLen := rfl
@[simp] theorem Instance.refuse_crcValue (r : Refusal) : (x.refuse r).crcValue = x.crcValue := rfl
@[simp] theorem Instance.refuse_crcPresent (r : Refusal) : (x.refuse r).crcPresent = x.crcPresent := rfl
@[simp] theorem Instance.refuse_inBuf (r : Refusal) : (x.refuse r).inBuf = x.inBuf := rfl
@[simp] theorem Instance.refuse_dataBuf (r : Refusal) : (x.refuse r).dataBuf = x.dataBuf := rfl
@[simp] theorem Instance.refuse_faults (r : Refusal) : (x.refuse r).faults = x.faults := rfl
@[simp] theorem Instance.refuse_refused (r : Refusal) : (x.refuse r).refused = true := rfl
@[simp] theorem Instance.refuse_reads (r : Refusal) : (x.refuse r).reads = x.reads := rfl
@[simp] theorem Instance.refuse_owner (r : Refusal) : (x.refuse r).owner = x.owner := rfl
@[simp] theorem Instance.refuse_delay (r : Refusal) : (x.refuse r).delay = x.delay := rfl

/-! ### `Instance.claim` -/

@[simp] theorem Instance.claim_cfg (a : Nat) : (x.claim a).cfg = x.cfg := rfl
@[simp] theorem Instance.claim_variant (a : Nat) : (x.claim a).variant = x.variant := rfl
@[simp] theorem Instance.claim_inLen (a : Nat) : (x.claim a).inLen = x.inLen := rfl
@[simp] theorem Instance.claim_busy (a : Nat) : (x.claim a).busy = x.busy := rfl
@[simp] theorem Instance.claim_valid (a : Nat) : (x.claim a).valid = x.valid := rfl
@[simp] theorem Instance.claim_code (a : Nat) : (x.claim a).code = x.code := rfl
@[simp] theorem Instance.claim_address (a : Nat) : (x.claim a).address = x.address := rfl
@[simp] theorem Instance.claim_functionCode (a : Nat) : (x.claim a).functionCode = x.functionCode := rfl
@[simp] theorem Instance.claim_dataLen (a : Nat) : (x.claim a).dataLen = x.dataLen := rfl
@[simp] theorem Instance.claim_crcValue (a : Nat) : (x.claim a).crcValue = x.crcValue := rfl
@[simp] theorem Instance.claim_crcPresent (a : Nat) : (x.claim a).crcPresent = x.crcPresent := rfl
@[simp] theorem Instance.claim_inBuf (a : Nat) : (x.claim a).inBuf = x.inBuf := rfl
@[simp] theorem Instance.claim_dataBuf (a : Nat) : (x.claim a).dataBuf = x.dataBuf := rfl
@[simp] theorem Instance.claim_faults (a : Nat) : (x.claim a).faults = x.faults := rfl
@[simp] theorem Instance.claim_refused (a : Nat) : (x.claim a).refused = x.refused := rfl
@[simp] theorem Instance.claim_reads (a : Nat) : (x.claim a).reads = x.reads := rfl
@[simp] theorem Instance.claim_delay (a : Nat) : (x.claim a).delay = x.delay := rfl

theorem Instance.claim_owner (a : Nat) : (x.claim a).owner = some (x.owner.getD a) := by
  unfold Instance.claim; cases x.owner <;> rfl

/-! ### `Instance.observe` -/

@[simp] theorem Instance.observe_cfg (v : Word) : (x.observe v).cfg = x.cfg := rfl
@[simp] theorem Instance.observe_variant (v : Word) : (x.observe v).variant = x.variant := rfl
@[simp] theorem Instance.observe_inLen (v : Word) : (x.observe v).inLen = x.inLen := rfl
@[simp] theorem Instance.observe_busy (v : Word) : (x.observe v).busy = x.busy := rfl
@[simp] theorem Instance.observe_valid (v : Word) : (x.observe v).valid = x.valid := rfl
@[simp] theorem Instance.observe_code (v : Word) : (x.observe v).code = x.code := rfl
@[simp] theorem Instance.observe_address (v : Word) : (x.observe v).address = x.address := rfl
@[simp] theorem Instance.observe_functionCode (v : Word) : (x.observe v).functionCode = x.functionCode := rfl
@[simp] theorem Instance.observe_dataLen (v : Word) : (x.observe v).dataLen = x.dataLen := rfl
@[simp] theorem Instance.observe_crcValue (v : Word) : (x.observe v).crcValue = x.crcValue := rfl
@[simp] theorem Instance.observe_crcPresent (v : Word) : (x.observe v).crcPresent = x.crcPresent := rfl
@[simp] theorem Instance.observe_inBuf (v : Word) : (x.observe v).inBuf = x.inBuf := rfl
@[simp] theorem Instance.observe_dataBuf (v : Word) : (x.observe v).dataBuf = x.dataBuf := rfl
@[simp] theorem Instance.observe_faults (v : Word) : (x.observe v).faults = x.faults := rfl
@[simp] theorem Instance.observe_refused (v : Word) : (x.observe v).refused = x.refused := rfl
@[simp] theorem Instance.observe_reads (v : Word) : (x.observe v).reads = x.reads ++ [v] := rfl
@[simp] theorem Instance.observe_owner (v : Word) : (x.observe v).owner = x.owner := rfl
@[simp] theorem Instance.observe_delay (v : Word) : (x.observe v).delay = x.delay := rfl

/-! ### `Instance.tick` -/

@[simp] theorem Instance.tick_cfg : (x.tick).cfg = x.cfg := rfl
@[simp] theorem Instance.tick_variant : (x.tick).variant = x.variant := rfl
@[simp] theorem Instance.tick_inLen : (x.tick).inLen = x.inLen := rfl
@[simp] theorem Instance.tick_busy : (x.tick).busy = x.busy := rfl
@[simp] theorem Instance.tick_valid : (x.tick).valid = x.valid := rfl
@[simp] theorem Instance.tick_code : (x.tick).code = x.code := rfl
@[simp] theorem Instance.tick_address : (x.tick).address = x.address := rfl
@[simp] theorem Instance.tick_functionCode : (x.tick).functionCode = x.functionCode := rfl
@[simp] theorem Instance.tick_dataLen : (x.tick).dataLen = x.dataLen := rfl
@[simp] theorem Instance.tick_crcValue : (x.tick).crcValue = x.crcValue := rfl
@[simp] theorem Instance.tick_crcPresent : (x.tick).crcPresent = x.crcPresent := rfl
@[simp] theorem Instance.tick_inBuf : (x.tick).inBuf = x.inBuf := rfl
@[simp] theorem Instance.tick_dataBuf : (x.tick).dataBuf = x.dataBuf := rfl
@[simp] theorem Instance.tick_faults : (x.tick).faults = x.faults := rfl
@[simp] theorem Instance.tick_refused : (x.tick).refused = x.refused := rfl
@[simp] theorem Instance.tick_reads : (x.tick).reads = x.reads := rfl
@[simp] theorem Instance.tick_owner : (x.tick).owner = x.owner := rfl
@[simp] theorem Instance.tick_delay : (x.tick).delay = x.delay - 1 := rfl

/-! ### `Instance.commit` of any result -/

@[simp] theorem Instance.commit_cfg (r : DecodeResult) : (x.commit r).cfg = x.cfg := by cases r <;> rfl
@[simp] theorem Instance.commit_variant (r : DecodeResult) : (x.commit r).variant = x.variant := by cases r <;> rfl
@[simp] theorem Instance.commit_inLen (r : DecodeResult) : (x.commit r).inLen = x.inLen := by cases r <;> rfl
@[simp] theorem Instance.commit_busy (r : DecodeResult) : (x.commit r).busy = false := by cases r <;> rfl
@[simp] theorem Instance.commit_valid (r : DecodeResult) : (x.commit r).valid = true := by cases r <;> rfl
@[simp] theorem Instance.commit_inBuf (r : DecodeResult) : (x.commit r).inBuf = x.inBuf := by cases r <;> rfl
@[simp] theorem Instance.commit_faults (r : DecodeResult) : (x.commit r).faults = x.faults := by cases r <;> rfl
@[simp] theorem Instance.commit_refused (r : DecodeResult) : (x.commit r).refused = x.refused := by cases r <;> rfl
@[simp] theorem Instance.commit_reads (r : DecodeResult) : (x.commit r).reads = x.reads := by cases r <;> rfl
@[simp] theorem Instance.commit_owner (r : DecodeResult) : (x.commit r).owner = x.owner := by cases r <;> rfl
@[simp] theorem Instance.commit_delay (r : DecodeResult) : (x.commit r).delay = x.delay := by cases r <;> rfl

/-! ### The instance at the start of a run -/

@[simp] theorem Instance.initial_cfg (c : Config) : (Instance.initial c).cfg = c := rfl
@[simp] theorem Instance.initial_variant (c : Config) : (Instance.initial c).variant = .rtu := rfl
@[simp] theorem Instance.initial_inLen (c : Config) : (Instance.initial c).inLen = 0 := rfl
@[simp] theorem Instance.initial_busy (c : Config) : (Instance.initial c).busy = false := rfl
@[simp] theorem Instance.initial_valid (c : Config) : (Instance.initial c).valid = false := rfl
@[simp] theorem Instance.initial_code (c : Config) : (Instance.initial c).code = 0 := rfl
@[simp] theorem Instance.initial_address (c : Config) : (Instance.initial c).address = 0 := rfl
@[simp] theorem Instance.initial_functionCode (c : Config) : (Instance.initial c).functionCode = 0 := rfl
@[simp] theorem Instance.initial_dataLen (c : Config) : (Instance.initial c).dataLen = 0 := rfl
@[simp] theorem Instance.initial_crcValue (c : Config) : (Instance.initial c).crcValue = 0 := rfl
@[simp] theorem Instance.initial_crcPresent (c : Config) : (Instance.initial c).crcPresent = false := rfl
@[simp] theorem Instance.initial_inBuf (c : Config) : (Instance.initial c).inBuf = [] := rfl
@[simp] theorem Instance.initial_dataBuf (c : Config) : (Instance.initial c).dataBuf = [] := rfl
@[simp] theorem Instance.initial_faults (c : Config) : (Instance.initial c).faults = [] := rfl
@[simp] theorem Instance.initial_refused (c : Config) : (Instance.initial c).refused = false := rfl
@[simp] theorem Instance.initial_reads (c : Config) : (Instance.initial c).reads = [] := rfl
@[simp] theorem Instance.initial_owner (c : Config) : (Instance.initial c).owner = none := rfl
@[simp] theorem Instance.initial_delay (c : Config) : (Instance.initial c).delay = 0 := rfl

/-! ### Operations on the state -/

@[simp] theorem State.onInst_inst (f : Instance → Instance) : (s.onInst f).inst = f s.inst := rfl
@[simp] theorem State.onInst_peers (f : Instance → Instance) : (s.onInst f).peers = s.peers := rfl
@[simp] theorem State.onInst_program (f : Instance → Instance) : (s.onInst f).program = s.program := rfl
@[simp] theorem State.onInst_line (f : Instance → Instance) : (s.onInst f).line = s.line := rfl
@[simp] theorem State.onInst_delays (f : Instance → Instance) : (s.onInst f).delays = s.delays := rfl
@[simp] theorem State.onInst_draws (f : Instance → Instance) : (s.onInst f).draws = s.draws := rfl

@[simp] theorem State.recordFault_inst (f : Fault) : (s.recordFault f).inst = s.inst.addFault f s.line := rfl
@[simp] theorem State.recordFault_peers (f : Fault) : (s.recordFault f).peers = s.peers := rfl
@[simp] theorem State.recordFault_program (f : Fault) : (s.recordFault f).program = s.program := rfl
@[simp] theorem State.recordFault_line (f : Fault) : (s.recordFault f).line = s.line := rfl
@[simp] theorem State.recordFault_delays (f : Fault) : (s.recordFault f).delays = s.delays := rfl
@[simp] theorem State.recordFault_draws (f : Fault) : (s.recordFault f).draws = s.draws := rfl

@[simp] theorem State.recordRefusal_inst (r : Refusal) : (s.recordRefusal r).inst = s.inst.refuse r := rfl
@[simp] theorem State.recordRefusal_peers (r : Refusal) : (s.recordRefusal r).peers = s.peers := rfl
@[simp] theorem State.recordRefusal_program (r : Refusal) : (s.recordRefusal r).program = s.program := rfl
@[simp] theorem State.recordRefusal_line (r : Refusal) : (s.recordRefusal r).line = s.line := rfl
@[simp] theorem State.recordRefusal_delays (r : Refusal) : (s.recordRefusal r).delays = s.delays := rfl
@[simp] theorem State.recordRefusal_draws (r : Refusal) : (s.recordRefusal r).draws = s.draws := rfl

@[simp] theorem State.hardReset_inst : (s.hardReset).inst = s.inst.hardReset := rfl
@[simp] theorem State.hardReset_peers : (s.hardReset).peers = s.peers := rfl
@[simp] theorem State.hardReset_program : (s.hardReset).program = s.program := rfl
@[simp] theorem State.hardReset_line : (s.hardReset).line = s.line := rfl
@[simp] theorem State.hardReset_delays : (s.hardReset).delays = s.delays := rfl
@[simp] theorem State.hardReset_draws : (s.hardReset).draws = s.draws := rfl

@[simp] theorem State.tick_inst : (s.tick).inst = s.inst.tick := rfl
@[simp] theorem State.tick_peers : (s.tick).peers = s.peers.map Instance.tick := rfl
@[simp] theorem State.tick_program : (s.tick).program = s.program := rfl
@[simp] theorem State.tick_line : (s.tick).line = s.line := rfl
@[simp] theorem State.tick_delays : (s.tick).delays = s.delays := rfl
@[simp] theorem State.tick_draws : (s.tick).draws = s.draws := rfl

@[simp] theorem State.beginLine_inst (l : HostLine) (rest : List HostLine) : (s.beginLine l rest).inst = s.inst.tick := rfl
@[simp] theorem State.beginLine_peers (l : HostLine) (rest : List HostLine) : (s.beginLine l rest).peers = s.peers.map Instance.tick := rfl
@[simp] theorem State.beginLine_program (l : HostLine) (rest : List HostLine) : (s.beginLine l rest).program = rest := rfl
@[simp] theorem State.beginLine_line (l : HostLine) (rest : List HostLine) : (s.beginLine l rest).line = l.line := rfl
@[simp] theorem State.beginLine_delays (l : HostLine) (rest : List HostLine) : (s.beginLine l rest).delays = s.delays := rfl
@[simp] theorem State.beginLine_draws (l : HostLine) (rest : List HostLine) : (s.beginLine l rest).draws = s.draws := rfl

end Sys2Proof.Machine
end

