-- ==== Sys2Proof/Laws/Events.lean ====
section
/-! SUPPORT. Said once: everything a host access, and everything a step, can do to an instance. Later proofs cite these and unfold
neither. -/

namespace Sys2Proof.Machine

/-- All that a command does: the fault while a decode is pending, or the accepted CMD write (R26, R142). -/
theorem startCommand_cases (v : Variant) (s : State) :
    (s.inst.busy = true ∧ s.startCommand v = s.recordFault .hostWriteWhileBusy)
    ∨ (s.inst.busy = false ∧ s.startCommand v =
        { s with inst := s.inst.accept v s.draws s.nextDelay, delays := s.delays.tail, draws := s.draws + 1 }) := by
  unfold State.startCommand
  cases h : s.inst.busy <;> simp

/-- Every command has the effect of R26 with its own variant. -/
theorem exec_eq (i : Instr) (s : State) : exec i s = .next (s.startCommand i.variant) := by cases i <;> rfl

/-- A read of a register changes nothing but the counter of free values (R51). -/
theorem readReg_state (r : Reg) (s : State) : ∃ d, (s.readReg r).1 = { s with draws := d } := by
  unfold State.readReg
  split
  · exact ⟨_, rfl⟩
  · exact ⟨s.draws, rfl⟩

theorem readByte_state (b : Option Byte) (s : State) : ∃ d, (s.readByte b).1 = { s with draws := d } := by
  cases b
  · exact ⟨_, rfl⟩
  · exact ⟨s.draws, rfl⟩

/-- A read changes nothing but the counter of free values (R51, R54). -/
theorem readTarget_state (t : Target) (s : State) : ∃ d, (readTarget t s).1 = { s with draws := d } := by
  cases t with
  | reg r => exact readReg_state r s
  | inBuf i => exact readByte_state _ s
  | dataBuf i => exact readByte_state _ s

/-- All that a host access can do to an instance (R127), where `x` is the instance with its host known. -/
inductive AccessEffect (x : Instance) : Instance → Prop
  /-- a read: the value joins the observation (R51, R54) -/
  | read (v : Word) : AccessEffect x (x.observe v)
  /-- a fault (R128) -/
  | fault (line : Nat) : x.busy = true → AccessEffect x (x.addFault .hostWriteWhileBusy line)
  /-- a refusal (R129) -/
  | refused (r : Refusal) : AccessEffect x (x.refuse r)
  /-- an accepted CMD write (R26) -/
  | command (v : Variant) (d n : Nat) : x.busy = false → AccessEffect x (x.accept v d n)
  /-- an IN_LEN write (R27) -/
  | inLen (n : BitVec 13) : x.busy = false → n.toNat ≤ x.cfg.maxLen → AccessEffect x { x with inLen := n }
  /-- an IN_BUF write (R53) -/
  | inBuf (i : Nat) (b : Byte) : x.busy = false → i < x.cfg.maxLen → AccessEffect x { x with inBuf := x.inBuf.write i b }

/-- A state that differs from `s` in the instance followed and the model's counters only. -/
structure OnlyInst (s t : State) : Prop where
  peers   : t.peers = s.peers
  program : t.program = s.program
  line    : t.line = s.line

/-- A target's index lies in its window (R47, R50). -/
theorem targetOf_index {m off w i : Nat} (h : targetOf m off w = .ok (.inBuf i)) : i < m := by
  unfold targetOf at h
  split at h
  · split at h
    · cases h
    · split at h <;> cases h
  · split at h
    · split at h
      · cases h
      · simp only [Except.ok.injEq, Target.inBuf.injEq] at h; omega
    · split at h
      · split at h <;> cases h
      · cases h

/-- What settling a verdict on a write does. -/
theorem settle_write {t : Target} {w : Word} {s : State} (ht : ∀ i, t = .inBuf i → i < s.inst.cfg.maxLen) :
    AccessEffect s.inst (settle s (writeTarget t w s)).1.inst ∧ OnlyInst s (settle s (writeTarget t w s)).1 := by
  have ro : AccessEffect s.inst (settle s (.refused .readOnlyWrite)).1.inst ∧ OnlyInst s (settle s (.refused .readOnlyWrite)).1 :=
    ⟨.refused .readOnlyWrite, rfl, rfl, rfl⟩
  have fault : s.inst.busy = true → AccessEffect s.inst (settle s (.faulted .hostWriteWhileBusy)).1.inst
      ∧ OnlyInst s (settle s (.faulted .hostWriteWhileBusy)).1 := fun hb => ⟨.fault _ hb, rfl, rfl, rfl⟩
  cases t with
  | dataBuf i => exact ro
  | inBuf i =>
    simp only [writeTarget, writeInBuf]
    split
    · exact fault ‹_›
    · next hb => exact ⟨.inBuf i _ (by simpa using hb) (ht i rfl), rfl, rfl, rfl⟩
  | reg r =>
    cases r with
    | cmd =>
      simp only [writeTarget, writeCmd]
      split
      · rw [exec_eq]
        rcases startCommand_cases (Instr.variant ‹_›) s with ⟨hb, he⟩ | ⟨hb, he⟩ <;> simp only [he, settle]
        · exact ⟨.fault _ hb, rfl, rfl, rfl⟩
        · exact ⟨.command _ _ _ hb, rfl, rfl, rfl⟩
      · split
        · exact fault ‹_›
        · exact ⟨.refused .reservedCommand, rfl, rfl, rfl⟩
    | inLen =>
      simp only [writeTarget, writeInLen]
      split
      · exact fault ‹_›
      · split
        · exact ⟨.refused .lengthOutOfRange, rfl, rfl, rfl⟩
        · next hb hn => exact ⟨.inLen _ (by simpa using hb) (by simp only [not_or, Nat.not_lt] at hn; exact hn.2), rfl, rfl, rfl⟩
    | status => exact ro
    | frame => exact ro
    | dataLen => exact ro
    | crc => exact ro
    | param => exact ro

/-- All that a host access to the followed instance can do. -/
theorem hostAccess_effect (agent : Nat) (a : Access) (off : Nat) (s : State) :
    AccessEffect (s.inst.claim agent) (hostAccess agent a off s).1.inst ∧ OnlyInst s (hostAccess agent a off s).1 := by
  have key : ∀ c : State, AccessEffect c.inst (settle c (accessVerdict agent a off c)).1.inst
      ∧ OnlyInst c (settle c (accessVerdict agent a off c)).1 := by
    intro c
    unfold accessVerdict blockAccess
    split
    · split
      · next r _ => exact ⟨.refused r, rfl, rfl, rfl⟩
      · next t ht =>
        cases a with
        | read w ad =>
          obtain ⟨d, hd⟩ := readTarget_state t c
          simp only [settle, hd, State.onInst]
          exact ⟨.read _, rfl, rfl, rfl⟩
        | write w ad v => exact settle_write fun i hi => by subst hi; exact targetOf_index ht
    · exact ⟨.refused .multipleHosts, rfl, rfl, rfl⟩
  obtain ⟨h1, h2⟩ := key (s.onInst (Instance.claim agent))
  exact ⟨h1, h2.peers, h2.program, h2.line⟩

/-- A bus access is a host access inside the instance's window, and a refusal outside it (R46). -/
theorem localAccess_cases (agent : Nat) (a : Access) (s : State) :
    (covers s.inst.cfg a.addr = true ∧ localAccess agent a s = hostAccess agent a (a.addr - s.inst.cfg.base) s)
    ∨ (covers s.inst.cfg a.addr = false ∧ localAccess agent a s = (s.recordRefusal .unmapped, none)) := by
  unfold localAccess
  cases h : covers s.inst.cfg a.addr <;> simp

theorem localAccess_peers (agent : Nat) (a : Access) (s : State) : (localAccess agent a s).1.peers = s.peers := by
  rcases localAccess_cases agent a s with ⟨-, e⟩ | ⟨-, e⟩ <;> rw [e]
  · exact (hostAccess_effect _ _ _ _).2.peers
  · rfl

/-- Where an address lies depends on the parameters of the instances alone, so an event that passes does not change it. -/
theorem place_beginLine (addr : Nat) (l : HostLine) (rest : List HostLine) (s : State) :
    (s.beginLine l rest).place addr = s.place addr := by
  simp only [State.place, State.beginLine_inst, Instance.tick_cfg, State.beginLine_peers, List.findIdx?_map]
  rfl

theorem landing_beginLine (agent addr : Nat) (l : HostLine) (rest : List HostLine) (s : State) :
    (s.beginLine l rest).landing agent addr = s.landing agent addr := by
  simp only [State.landing, State.home, place_beginLine, State.beginLine_inst, Instance.tick_owner, State.beginLine_peers,
    List.findIdx?_map]
  rfl

/-- An address that lies in another instance's window lies in the window of that instance. -/
theorem place_peer {addr k : Nat} {s : State} {p : Instance} (h : s.place addr = .peer k) (hk : s.peers[k]? = some p) :
    covers p.cfg addr = true := by
  unfold State.place at h
  split at h
  · cases h
  · split at h
    · next j hj =>
      cases h
      rw [List.findIdx?_eq_some_iff_getElem] at hj
      obtain ⟨hl, hc, -⟩ := hj
      rw [List.getElem?_eq_getElem hl] at hk
      cases hk
      exact hc
    · cases h

theorem place_focus {addr : Nat} {s : State} : s.place addr = .focus ↔ covers s.inst.cfg addr = true := by
  unfold State.place
  split
  · next h => simp [h]
  · next h => simp only [h]; split <;> simp

theorem landing_of_place {agent addr : Nat} {s : State} {p : Place} (h : s.place addr = p) (hp : p ≠ .nowhere) :
    s.landing agent addr = p := by
  unfold State.landing
  rw [h]
  cases p <;> first | rfl | contradiction

/-- A bus access to an address of the followed instance is that instance's host access. -/
theorem busAccess_focus {agent : Nat} {a : Access} {s : State} (h : s.place a.addr = .focus) :
    s.busAccess agent a = hostAccess agent a (a.addr - s.inst.cfg.base) s := by
  unfold State.busAccess
  rw [landing_of_place h (by simp)]
  exact if_pos (place_focus.1 h)

/-- A bus access to an address of another instance is that instance's host access. -/
theorem busAccess_peer {agent k : Nat} {a : Access} {s : State} {p : Instance} (h : s.place a.addr = .peer k)
    (hk : s.peers[k]? = some p) :
    s.busAccess agent a =
      ({ (hostAccess agent a (a.addr - p.cfg.base) { s with inst := p }).1 with
          inst := s.inst
          peers := s.peers.set k (hostAccess agent a (a.addr - p.cfg.base) { s with inst := p }).1.inst },
        (hostAccess agent a (a.addr - p.cfg.base) { s with inst := p }).2) := by
  unfold State.busAccess
  rw [landing_of_place h (by simp)]
  simp only [State.atPlace, hk]
  rw [show localAccess agent a { s with inst := p } = hostAccess agent a (a.addr - p.cfg.base) { s with inst := p } from
    if_pos (place_peer h hk)]

/-- A bus access to an address of no instance is a refusal at the instance that the agent serves (log 11). -/
theorem busAccess_nowhere {agent : Nat} {a : Access} {s : State} (h : s.place a.addr = .nowhere) :
    s.busAccess agent a = s.atPlace (s.home agent) fun t => (t.recordRefusal .unmapped, none) := by
  unfold State.place at h
  split at h
  · cases h
  · next hc =>
    split at h
    · cases h
    · next hp =>
      have hl : s.landing agent a.addr = s.home agent := by simp [State.landing, State.place, hc, hp]
      unfold State.busAccess State.atPlace
      rw [hl]
      split
      · exact if_neg hc
      · split
        · rfl
        · next x hx =>
          have hx' : covers x.cfg a.addr = false := List.findIdx?_eq_none_iff.1 hp x (List.mem_of_getElem? hx)
          rw [show localAccess agent a { s with inst := x } = _ from if_neg (by simp [hx'])]
      · rfl

/-- A bus access leaves the program to its line. -/
theorem busAccess_program (agent : Nat) (a : Access) (s : State) : (s.busAccess agent a).1.program = s.program := by
  have hl : ∀ u : State, (localAccess agent a u).1.program = u.program := by
    intro u
    rcases localAccess_cases agent a u with ⟨-, e⟩ | ⟨-, e⟩ <;> rw [e]
    · exact (hostAccess_effect _ _ _ _).2.program
    · rfl
  unfold State.busAccess State.atPlace
  split
  · exact hl s
  · split
    · rfl
    · exact hl _
  · rfl

/-- All that one step can do to an instance. -/
inductive InstEvent (x : Instance) : Instance → Prop
  /-- nothing happens -/
  | idle : InstEvent x x
  /-- an event elsewhere -/
  | passed : InstEvent x x.tick
  /-- the decoder step (R95) -/
  | decoded (d : Nat) : x.busy = true →
      InstEvent x (x.tick.commit (decodeFrame x.cfg x.variant (inBytes x.inBuf d 0 x.inLen.toNat)))
  /-- a host access (R127) -/
  | accessed (agent : Nat) {y : Instance} : AccessEffect (x.tick.claim agent) y → InstEvent x y
  /-- a reset (R138) -/
  | reset : InstEvent x x.tick.hardReset
  /-- an access of its host to an address of no instance (log 11) -/
  | stray : InstEvent x (x.tick.refuse .unmapped)

/-- The decoder step on a pending decode (R95). -/
theorem decoderStep_busy {s : State} (h : s.inst.busy = true) :
    decoderStep s = { s with
      inst := s.inst.commit (decodeFrame s.inst.cfg s.inst.variant s.frame), draws := s.draws + s.inst.inLen.toNat } := by
  simp [decoderStep, h]

theorem decoderStep_idle {s : State} (h : s.inst.busy = false) : decoderStep s = s := by simp [decoderStep, h]

@[simp] theorem State.frame_length (s : State) : s.frame.length = s.inst.inLen.toNat := inBytes_length ..

/-- What an operation does to the instances of the system, if it acts on one of them only. -/
theorem atPlace_instances {p : Place} {f : State → State × Option Word} {s : State}
    (hf : ∀ t : State, (f t).1.peers = t.peers) :
    ((s.atPlace p f).1.inst = s.inst ∨ p = .focus ∧ (s.atPlace p f).1.inst = (f s).1.inst)
    ∧ (∀ (k : Nat) (q : Instance), (s.atPlace p f).1.peers[k]? = some q → ∃ x, s.peers[k]? = some x ∧
        (q = x ∨ p = .peer k ∧ q = (f { s with inst := x }).1.inst)) ∧ (s.atPlace p f).1.peers.length = s.peers.length := by
  cases p with
  | focus => exact ⟨.inr ⟨rfl, rfl⟩, fun k q h => ⟨q, by rw [← hf s]; exact h, .inl rfl⟩, by rw [← hf s]; rfl⟩
  | nowhere => exact ⟨.inl rfl, fun k q h => ⟨q, h, .inl rfl⟩, rfl⟩
  | peer j =>
    simp only [State.atPlace]
    split
    · exact ⟨.inl rfl, fun k q h => ⟨q, h, .inl rfl⟩, rfl⟩
    · next x hx =>
      refine ⟨.inl rfl, fun k q h => ?_, List.length_set⟩
      rcases eq_or_ne j k with rfl | hne
      · rw [List.getElem?_set_self (by simpa using (List.getElem?_eq_some_iff.1 hx).1)] at h
        cases h
        exact ⟨x, hx, .inr ⟨rfl, rfl⟩⟩
      · rw [List.getElem?_set_ne hne] at h
        exact ⟨q, h, .inl rfl⟩

/-- A step is a due decoder step, the next line of the host program, or nothing. -/
theorem step_cases {s t : State} (h : step s = .next t) :
    (∃ p, s.nextDecoder = some p ∧ t = (s.tick.atPlace p fun u => (decoderStep u, none)).1)
    ∨ (∃ l rest, s.nextDecoder = none ∧ s.program = l :: rest ∧ t = hostLine l (s.beginLine l rest))
    ∨ (s.nextDecoder = none ∧ s.program = [] ∧ t = s) := by
  unfold step advance at h
  split at h
  · next p hp => cases h; exact .inl ⟨p, hp, rfl⟩
  · next hn =>
    split at h
    · next hp => cases h; exact .inr (.inr ⟨hn, hp, rfl⟩)
    · next l rest hp => cases h; exact .inr (.inl ⟨l, rest, hn, hp, rfl⟩)

/-- A line of the host program is a reset or one bus access; what is left of it, and the lines after it, are left to do (R85). -/
theorem hostLine_cases (l : HostLine) (s : State) :
    (∃ base, l.op = .reset base ∧ hostLine l s = s.resetAt base)
    ∨ (∃ a, opNow l.op = some a ∧ opAddr l.op = a.addr ∧ hostLine l s =
        { (s.busAccess l.agent a).1 with
          program := (opLater (s.busAccess l.agent a).2 l.op).map (fun o => ⟨l.line, l.agent, o⟩) ++ s.program }) := by
  unfold hostLine
  cases l.op with
  | reset base => exact .inl ⟨base, rfl, rfl⟩
  | access a => exact .inr ⟨a, rfl, rfl, by simp only [opNow, busAccess_program]⟩
  | wait base => exact .inr ⟨_, rfl, rfl, by simp only [opNow, busAccess_program]⟩
  | result base => exact .inr ⟨_, rfl, rfl, by simp only [opNow, busAccess_program]⟩
  | resultTail base => exact .inr ⟨_, rfl, rfl, by simp only [opNow, busAccess_program]⟩

/-- Everything one step can do to the instance followed, and to each other instance; no instance comes or goes. -/
theorem step_events {s t : State} (h : step s = .next t) :
    InstEvent s.inst t.inst ∧ (∀ (k : Nat) (q : Instance), t.peers[k]? = some q → ∃ x, s.peers[k]? = some x ∧ InstEvent x q)
    ∧ t.peers.length = s.peers.length := by
  have ticked : ∀ (k : Nat) (y : Instance), (s.peers.map Instance.tick)[k]? = some y → ∃ x, s.peers[k]? = some x ∧ y = x.tick := by
    intro k y hy
    rw [List.getElem?_map] at hy
    cases hx : s.peers[k]? with
    | none => simp [hx] at hy
    | some x => simp [hx] at hy; exact ⟨x, rfl, hy.symm⟩
  have decode : ∀ u : State, ∀ x : Instance, u.inst = x.tick → InstEvent x (decoderStep u).inst := by
    intro u x hu
    cases hb : u.inst.busy with
    | false => rw [decoderStep_idle hb, hu]; exact .passed
    | true =>
      rw [decoderStep_busy hb]
      have := InstEvent.decoded (x := x) u.draws (by rw [← hb, hu]; rfl)
      simpa [hu, State.frame] using this
  rcases step_cases h with ⟨p, -, rfl⟩ | ⟨l, rest, -, -, rfl⟩ | ⟨-, -, rfl⟩
  · obtain ⟨h1, h2, h3⟩ := atPlace_instances (p := p) (s := s.tick) (f := fun u => (decoderStep u, none))
      (fun u => by unfold decoderStep; dsimp only; split <;> rfl)
    refine ⟨?_, fun k q hq => ?_, h3.trans (by simp)⟩
    · rcases h1 with h1 | ⟨-, h1⟩ <;> rw [h1]
      · exact .passed
      · exact decode _ _ rfl
    · obtain ⟨y, hy, hq⟩ := h2 k q hq
      obtain ⟨x, hx, rfl⟩ := ticked k y hy
      refine ⟨x, hx, ?_⟩
      rcases hq with rfl | ⟨-, rfl⟩
      · exact .passed
      · exact decode _ _ rfl
  · have acts : ∀ (p : Place) (f : State → State × Option Word), (∀ u, (f u).1.peers = u.peers) →
        (∀ (u : State) (x : Instance), u.inst = x.tick → InstEvent x (f u).1.inst) →
        InstEvent s.inst ((s.beginLine l rest).atPlace p f).1.inst
        ∧ (∀ (k : Nat) (q : Instance), ((s.beginLine l rest).atPlace p f).1.peers[k]? = some q →
            ∃ x, s.peers[k]? = some x ∧ InstEvent x q)
        ∧ ((s.beginLine l rest).atPlace p f).1.peers.length = s.peers.length := by
      intro p f hf he
      obtain ⟨h1, h2, h3⟩ := atPlace_instances (p := p) (s := s.beginLine l rest) hf
      refine ⟨?_, fun k q hq => ?_, h3.trans (by simp)⟩
      · rcases h1 with h1 | ⟨-, h1⟩ <;> rw [h1]
        · exact .passed
        · exact he _ _ rfl
      · obtain ⟨y, hy, hq⟩ := h2 k q hq
        obtain ⟨x, hx, rfl⟩ := ticked k y hy
        refine ⟨x, hx, ?_⟩
        rcases hq with rfl | ⟨-, rfl⟩
        · exact .passed
        · exact he _ _ rfl
    rcases hostLine_cases l (s.beginLine l rest) with ⟨base, -, hl⟩ | ⟨a, -, -, hl⟩ <;> rw [hl]
    · exact acts _ _ (fun u => rfl) fun u x hu => by change InstEvent x u.inst.hardReset; rw [hu]; exact .reset
    · refine acts _ _ (localAccess_peers l.agent a) fun u x hu => ?_
      rcases localAccess_cases l.agent a u with ⟨-, e⟩ | ⟨-, e⟩ <;> rw [e]
      · have := (hostAccess_effect l.agent a (a.addr - u.inst.cfg.base) u).1
        rw [hu] at this ⊢
        exact .accessed l.agent this
      · change InstEvent x (u.inst.refuse .unmapped); rw [hu]; exact .stray
  · exact ⟨.idle, fun k q hq => ⟨q, hq, .idle⟩, rfl⟩

end Sys2Proof.Machine
end

