-- ==== Sys2Proof/Laws/PerInstr.lean ====
section
/-! SUPPORT. What holds of every command as syntax, one lemma for each. -/

namespace Sys2Proof.Laws.TableWord

/-- A command is well formed, and its word, as the opcode table numbers its bits, is read back as that command (R68, R69). -/
def Statement (i : Instr) : Prop := i.wellFormed = true ∧ decodeTableWord 32 (encode i).toNat = some i

theorem decodeRtu : Statement .decodeRtu := ⟨rfl, by decide⟩

theorem decodeTcp : Statement .decodeTcp := ⟨rfl, by decide⟩

theorem decodeRtuTcp : Statement .decodeRtuTcp := ⟨rfl, by decide⟩

end Sys2Proof.Laws.TableWord
end

