-- ==== Sys2Proof/Tests/Slice0.lean ====
section
/-! SUPPORT. Tests of one event or one evaluation each. Expected values come from spec/95_test_vectors.md (its vector's name in the
comment) or from the encoding tables. A theorem named `test_hyps_<Name>` shows that the hypotheses of the obligation of that name can be
met, clause by clause at the edges of its ranges. -/

namespace Sys2Proof.Tests

open Sys2Proof Sys2Proof.Machine

/-! ### Well-formedness: one ill-formed term for each check -/

theorem test_config_default_ok : Config.default.wellFormed = true := by decide

theorem test_config_ill_formed :
    ({ Config.default with maxLen := 13 } : Config).wellFormed = false
    ∧ ({ Config.default with maxLen := 4097 } : Config).wellFormed = false
    ∧ ({ Config.default with base := 0x2000 } : Config).wellFormed = false
    ∧ ({ Config.default with base := 0x4000, hostAddrW := 14 } : Config).wellFormed = false
    ∧ ({ Config.default with hostAddrW := 13 } : Config).wellFormed = false := by decide

theorem test_access_ill_formed :
    (Access.read 4 (2 ^ 32)).wellFormed Config.default = false
    ∧ (Access.write 4 (2 ^ 32 - 4) 0).wellFormed Config.default = true := by decide

theorem test_line_ill_formed :
    (SrcLine.sw 0x4000 0).wellFormed Config.default = false ∧ (SrcLine.lw 0x4000).wellFormed Config.default = false
    ∧ (SrcLine.sb 0x4000 0).wellFormed Config.default = false ∧ (SrcLine.lb 0x4000).wellFormed Config.default = false
    ∧ (SrcLine.frame [1, 2, 3, 4, 5]).wellFormed { Config.default with maxLen := 4 } = false
    ∧ (SrcLine.frame [1, 2, 3, 4]).wellFormed { Config.default with maxLen := 4 } = true
    ∧ (SrcLine.decode .decodeTcp).wellFormed Config.default = true := by decide

/-! ### The command word, written out: thirty reserved bits, then VARIANT (R68, R69, R70) -/

theorem test_decode_rtu_word : decode 0b00000000000000000000000000000000#32 = .ok .decodeRtu := by decide

theorem test_decode_tcp_word : decode 0b00000000000000000000000000000001#32 = .ok .decodeTcp := by decide

theorem test_decode_rtutcp_word : decode 0b00000000000000000000000000000010#32 = .ok .decodeRtuTcp := by decide

theorem test_reserved_words :
    decode 0b00000000000000000000000000000011#32 = .error .reservedCommand
    ∧ decode 0b00000000000000000000000000000100#32 = .error .reservedCommand
    ∧ decode 0b00000000000000000000000100000000#32 = .error .reservedCommand
    ∧ decode 0b10000000000000000000000000000001#32 = .error .reservedCommand := by decide

theorem test_table_words :
    decodeTableWord 32 0 = some .decodeRtu ∧ decodeTableWord 32 1 = some .decodeTcp ∧ decodeTableWord 32 2 = some .decodeRtuTcp
    ∧ decodeTableWord 32 3 = none ∧ decodeTableWord 8 1 = some .decodeTcp := by decide

/-! ### States for the tests -/

/-- The four configurations of the vectors: (STRICT_LENGTH, CHECK_CRC). -/
def cfgOf (strict crc : Bool) : Config := { Config.default with strictLength := strict, checkCrc := crc }

/-- An instance whose host has loaded a frame. -/
def loaded (c : Config) (bs : List Byte) : Instance :=
  { Instance.initial c with inBuf := Memory.holding 0 bs, inLen := BitVec.ofNat 13 bs.length }

/-- A state with the frame loaded and nothing else to do. -/
def ready (c : Config) (bs : List Byte) : State := { State.reset with inst := loaded c bs, draws := 5 }

/-- A state with a decode of the frame pending, three events away from its step. -/
def pending (v : Variant) (bs : List Byte) : State :=
  { ready Config.default bs with
    inst := { loaded Config.default bs with variant := v, busy := true, delay := 3, owner := some 7 }, line := 4 }

/-- A state whose last decode gave the result of S1 (its payload 00 6B 00 03). -/
def decoded : State :=
  { ready Config.default [1, 3, 0, 0x6B, 0, 3, 0x76, 0x87] with
    inst := { loaded Config.default [1, 3, 0, 0x6B, 0, 3, 0x76, 0x87] with
      valid := true, address := 1, functionCode := 3, dataLen := 4, crcValue := 0x8776, crcPresent := true,
      dataBuf := [(0, 0), (1, 0x6B), (2, 0), (3, 3)], owner := some 7 } }

/-- The same state with one more thing for the host to do. -/
def doing (s : State) (op : HostOp) : State := { s with program := [⟨9, 7, op⟩] }

/-- A second instance, at its own base. -/
def neighbour : Instance := { Instance.initial { Config.default with base := 0x4000 } with owner := some 8 }

/-- The state after a command and its decoder step. -/
def ran (i : Instr) (s : State) : State :=
  match exec i s with
  | .next t => decoderStep t
  | .fault _ => s
  | .refused _ => s

/-- STATUS, FRAME, DATA_LEN and CRC, and the defined bytes of DATA_BUF, after a command on a frame. -/
def outcome (i : Instr) (c : Config) (bs : List Byte) : List Word × List Byte :=
  let x := (ran i (ready c bs)).inst
  ([x.regWord .status, x.regWord .frame, x.regWord .dataLen, x.regWord .crc], x.dataBuf.map Prod.snd)

/-! ### The core function -/

set_option maxRecDepth 20000 in
/-- R4, R5, R6, R9, R8; K1, K4, K5, K6. -/
theorem test_rtu_vectors :
    decodeFrame Config.default .rtu [1, 0, 0] = .err .invalidLength
    ∧ decodeFrame Config.default .rtu [1, 3, 0x40, 0x21] = .ok ⟨1, 3, [], some 0x2140⟩
    ∧ decodeFrame Config.default .rtu [1, 3, 0xAA, 0x12, 0x34] = .ok ⟨1, 3, [0xAA], some 0x3412⟩
    ∧ decodeFrame Config.default .rtu [1, 0x80, 0, 0] = .err .invalidFunctionCode
    ∧ decodeFrame Config.default .rtu [0xFF, 0x7F, 0, 0] = .ok ⟨0xFF, 0x7F, [], some 0⟩
    ∧ decodeFrame (cfgOf false true) .rtu [1, 3, 0, 0x6B, 0, 3, 0x76, 0x87] = .err .invalidCrc
    ∧ decodeFrame (cfgOf false true) .rtu [1, 3, 0x40, 0x21] = .ok ⟨1, 3, [], some 0x2140⟩
    ∧ decodeFrame (cfgOf false true) .rtu [1, 3, 0x21, 0x40] = .err .invalidCrc
    ∧ decodeFrame (cfgOf false true) .rtu [1, 0, 0, 0] = .err .invalidFunctionCode := by decide

/-- T1, T2, T3, T6; L1, L2, L4, L5. -/
theorem test_tcp_vectors :
    decodeFrame Config.default .tcp [0, 1, 0, 0, 0, 6, 1] = .err .invalidLength
    ∧ decodeFrame Config.default .tcp [0, 1, 0, 0, 0, 2, 1, 3] = .ok ⟨1, 3, [], none⟩
    ∧ decodeFrame Config.default .tcp [0x12, 0x34, 0x56, 0x78, 0xFF, 0xFF, 0, 0x7F] = .ok ⟨0, 0x7F, [], none⟩
    ∧ decodeFrame Config.default .tcp [0, 1, 0, 0, 0, 6, 1, 0xFF] = .err .invalidFunctionCode
    ∧ decodeFrame (cfgOf true false) .tcp [0, 1, 0, 0, 0, 6, 1, 3, 0, 0x6B, 0, 3] = .ok ⟨1, 3, [0, 0x6B, 0, 3], none⟩
    ∧ decodeFrame (cfgOf true false) .tcp [0, 1, 0, 0, 0, 7, 1, 3, 0, 0x6B, 0, 3] = .err .invalidLength
    ∧ decodeFrame (cfgOf true false) .tcp [0, 1, 0, 0, 0, 6, 1, 0, 0, 0x6B, 0, 3] = .err .invalidFunctionCode
    ∧ decodeFrame (cfgOf true false) .tcp [0, 1, 0, 0, 0, 6, 1, 3] = .err .invalidLength := by decide

set_option maxRecDepth 20000 in
/-- U1, U2, U9, U4, U10; B1, B2, B3: with both checks on, the CRC is checked before the length field. -/
theorem test_rtutcp_vectors :
    decodeFrame Config.default .rtuTcp [0, 1, 0, 0, 0, 8, 1] = .err .invalidLength
    ∧ decodeFrame Config.default .rtuTcp [0, 1, 0, 0, 0, 2, 1, 3] = .err .invalidLength
    ∧ decodeFrame Config.default .rtuTcp [0, 1, 0, 0, 0, 2, 1, 0] = .err .invalidLength
    ∧ decodeFrame Config.default .rtuTcp [0, 1, 0, 0, 0, 4, 1, 3, 0x40, 0x21] = .ok ⟨1, 3, [], some 0x2140⟩
    ∧ decodeFrame Config.default .rtuTcp [0, 1, 0, 0, 0, 4, 1, 0, 0x40, 0x21] = .err .invalidFunctionCode
    ∧ decodeFrame (cfgOf true true) .rtuTcp [0, 1, 0, 0, 0, 7, 1, 3, 0, 0x6B, 0, 3, 0x76, 0x87] = .err .invalidCrc
    ∧ decodeFrame (cfgOf true true) .rtuTcp [0, 1, 0, 0, 0, 7, 1, 3, 0, 0x6B, 0, 3, 0x74, 0x17] = .err .invalidLength
    ∧ decodeFrame (cfgOf true true) .rtuTcp [0, 1, 0, 0, 0, 8, 1, 3, 0, 0x6B, 0, 3, 0x74, 0x17]
      = .ok ⟨1, 3, [0, 0x6B, 0, 3], some 0x1774⟩ := by decide

/-! ### The commands, to the registers -/

/-- S1 and S6. -/
theorem test_rtu_registers :
    outcome .decodeRtu Config.default [1, 3, 0, 0x6B, 0, 3, 0x76, 0x87] = ([2, 0x301, 4, 0x18776], [0, 0x6B, 0, 3])
    ∧ outcome .decodeRtu Config.default [1, 0x80, 0, 0x6B, 0, 3, 0x76, 0x87] = ([0xA, 0, 0, 0], []) := by decide

/-- S2 and T1. -/
theorem test_tcp_registers :
    outcome .decodeTcp Config.default [0, 1, 0, 0, 0, 6, 1, 3, 0, 0x6B, 0, 3] = ([2, 0x301, 4, 0], [0, 0x6B, 0, 3])
    ∧ outcome .decodeTcp Config.default [0, 1, 0, 0, 0, 6, 1] = ([6, 0, 0, 0], []) := by decide

/-- S3 and U6 (the bytes of S2). -/
theorem test_rtutcp_registers :
    outcome .decodeRtuTcp Config.default [0, 1, 0, 0, 0, 8, 1, 3, 0, 0x6B, 0, 3, 0x76, 0x87]
      = ([2, 0x301, 4, 0x18776], [0, 0x6B, 0, 3])
    ∧ outcome .decodeRtuTcp Config.default [0, 1, 0, 0, 0, 6, 1, 3, 0, 0x6B, 0, 3] = ([2, 0x301, 2, 0x10300], [0, 0x6B]) := by decide

/-! ### Registers and the bus -/

/-- G1 (CMD, IN_LEN, STATUS, FRAME, DATA_LEN, CRC), G2, G3, G4. -/
theorem test_register_words :
    [Reg.cmd, .inLen, .status, .frame, .dataLen, .crc].map State.reset.inst.regWord = [0, 0, 0, 0, 0, 0]
    ∧ State.reset.inst.regWord .param = 0x01040000
    ∧ (Instance.initial (cfgOf true true)).regWord .param = 0x01040003
    ∧ (Instance.initial { Config.default with maxLen := 14 }).regWord .param = 0x000E0000 := by decide

/-- G11 to G15. -/
theorem test_offset_refusals :
    targetOf 260 0x000 1 = .error .accessWidth ∧ targetOf 260 0x002 4 = .error .misaligned
    ∧ targetOf 260 0x01C 4 = .error .unmapped ∧ targetOf 260 0x1104 1 = .error .unmapped
    ∧ targetOf 260 0x1000 4 = .error .accessWidth := by decide

/-- G5, G6, G7, G8, G10, G16: refused at reset. -/
theorem test_write_refusals :
    writeTarget (.reg .cmd) 3 State.reset = .refused .reservedCommand
    ∧ writeTarget (.reg .cmd) 0x100 State.reset = .refused .reservedCommand
    ∧ writeTarget (.reg .inLen) 261 State.reset = .refused .lengthOutOfRange
    ∧ writeTarget (.reg .inLen) 0x2000 State.reset = .refused .lengthOutOfRange
    ∧ writeTarget (.reg .status) 0 State.reset = .refused .readOnlyWrite
    ∧ writeTarget (.dataBuf 0) 5 State.reset = .refused .readOnlyWrite := ⟨rfl, rfl, rfl, rfl, rfl, rfl⟩

/-- G9. -/
theorem test_in_len_write :
    (hostAccess 0 (.write 4 4 260) 4 State.reset).1.inst.regWord .inLen = 0x104 := by decide

/-- G18: while a decode is pending STATUS reads 1 in its low two bits and 0 above its code. -/
theorem test_status_while_busy :
    let v := (readTarget (.reg .status) (pending .rtu [])).2
    v.extractLsb' 0 2 = 1 ∧ v.extractLsb' 4 28 = 0 := by
  have h : ∀ c : BitVec 2, let v : Word := (0 : BitVec 28) ++ c ++ BitVec.ofBool false ++ BitVec.ofBool true
      v.extractLsb' 0 2 = 1 ∧ v.extractLsb' 4 28 = 0 := by decide
  exact h (Config.freeCode 5)

/-- G19, G20, G21: faults, recorded with the line, that change nothing; G22: the refusal comes before the fault. -/
theorem test_writes_while_busy :
    let s := pending .rtu [1, 3]
    let fault := s.recordFault .hostWriteWhileBusy
    (hostAccess 7 (.write 1 0x1000 0x11) 0x1000 s = (fault, none)) ∧ hostAccess 7 (.write 4 4 4) 4 s = (fault, none)
    ∧ hostAccess 7 (.write 4 0 3) 0 s = (fault, none) ∧ fault.inst.faults = [⟨.hostWriteWhileBusy, 4⟩]
    ∧ hostAccess 7 (.write 4 8 0) 8 s = (s.recordRefusal .readOnlyWrite, none) := by decide

/-- G23. -/
theorem test_reset_while_busy :
    let t := (pending .tcp [1, 3]).recordRefusal .unmapped |>.hardReset
    t.inst.regWord .status = 0 ∧ t.inst.refused = true ∧ t.inst.inBuf = [] ∧ decoderStep t = t := by decide

/-- G26: a write to IN_BUF changes no result. -/
theorem test_in_buf_write_after_decode :
    let t := (hostAccess 7 (.write 1 0x1000 0x11) 0x1000 decoded).1
    t.inst.inBuf.read 0 = some 0x11 ∧ t.inst.regWord .frame = 0x301 ∧ t.inst.dataBuf = decoded.inst.dataBuf := by decide

/-- R67: a second host is refused. -/
theorem test_second_host :
    hostAccess 8 (.read 4 0) 0 decoded = (decoded.recordRefusal .multipleHosts, none) := by decide

/-- R84, R85: the first lines of P3 with a shorter frame. -/
theorem test_assemble :
    assemble 7 0 1 [.frame [1, 0x83], .decode .decodeTcp, .wait] =
      [⟨1, 7, .access (.write 1 0x1000 1)⟩, ⟨1, 7, .access (.write 1 0x1001 0x83)⟩, ⟨1, 7, .access (.write 4 4 2)⟩,
        ⟨2, 7, .access (.write 4 0 1)⟩, ⟨3, 7, .wait 0⟩] := by decide

/-- The step after `withFetchWord` runs the command. -/
theorem test_fetch_word_runs :
    ∃ t, step (State.reset.withFetchWord 32 1) = .next t ∧ t.inst.busy = true ∧ t.inst.variant = .tcp := ⟨_, rfl, by decide, by decide⟩

/-! ### The hypotheses of the obligations can be met -/

theorem test_hyps_CommandMap : (0x4 : Word).extractLsb' 2 30 ≠ 0 ∧ (0x80000000 : Word).extractLsb' 2 30 ≠ 0 := by decide

theorem test_hyps_FieldAssembly : 0 + 1 < [(1 : Byte), 2].length := by decide

set_option maxRecDepth 20000 in
theorem test_hyps_RtuResult :
    [(1 : Byte), 3, 0].length < 4
    ∧ (4 ≤ [(1 : Byte), 0x80, 0, 0].length ∧ fcValid (byteAt [1, 0x80, 0, 0] 1) = false)
    ∧ (4 ≤ [(1 : Byte), 3, 0x21, 0x40].length ∧ fcValid (byteAt [1, 3, 0x21, 0x40] 1) = true ∧ (cfgOf false true).checkCrc = true
        ∧ crc16 ([1, 3, 0x21, 0x40].take (4 - 2)) ≠ le16 [1, 3, 0x21, 0x40] (4 - 2))
    ∧ (4 ≤ [(1 : Byte), 3, 0x40, 0x21].length ∧ fcValid (byteAt [1, 3, 0x40, 0x21] 1) = true
        ∧ ((cfgOf false true).checkCrc = true → crc16 ([1, 3, 0x40, 0x21].take (4 - 2)) = le16 [1, 3, 0x40, 0x21] (4 - 2))) := by decide

theorem test_hyps_TcpResult :
    [(0 : Byte), 1, 0, 0, 0, 6, 1].length < 8
    ∧ (8 ≤ [(0 : Byte), 1, 0, 0, 0, 2, 1, 0].length ∧ fcValid (byteAt [0, 1, 0, 0, 0, 2, 1, 0] 7) = false)
    ∧ (8 ≤ [(0 : Byte), 1, 0, 0, 0, 6, 1, 3].length ∧ fcValid (byteAt [0, 1, 0, 0, 0, 6, 1, 3] 7) = true
        ∧ (cfgOf true false).strictLength = true ∧ (be16 [0, 1, 0, 0, 0, 6, 1, 3] 4).toNat ≠ 8 - 6)
    ∧ (8 ≤ [(0 : Byte), 1, 0, 0, 0, 2, 1, 3].length ∧ fcValid (byteAt [0, 1, 0, 0, 0, 2, 1, 3] 7) = true
        ∧ ((cfgOf true false).strictLength = true → (be16 [0, 1, 0, 0, 0, 2, 1, 3] 4).toNat = 8 - 6)) := by decide

set_option maxRecDepth 20000 in
theorem test_hyps_RtuTcpResult :
    [(0 : Byte), 1, 0, 0, 0, 3, 1, 0, 0x6B].length < 10
    ∧ (10 ≤ [(0 : Byte), 1, 0, 0, 0, 4, 1, 0, 0x40, 0x21].length ∧ fcValid (byteAt [0, 1, 0, 0, 0, 4, 1, 0, 0x40, 0x21] 7) = false)
    ∧ (fcValid (byteAt [0, 1, 0, 0, 0, 4, 1, 3, 0x21, 0x40] 7) = true ∧ (cfgOf true true).checkCrc = true
        ∧ crc16 (([0, 1, 0, 0, 0, 4, 1, 3, 0x21, 0x40].drop 6).take (10 - 8)) ≠ le16 [0, 1, 0, 0, 0, 4, 1, 3, 0x21, 0x40] (10 - 2))
    ∧ (fcValid (byteAt [0, 1, 0, 0, 0, 5, 1, 3, 0x40, 0x21] 7) = true
        ∧ ((cfgOf true true).checkCrc = true →
            crc16 (([0, 1, 0, 0, 0, 5, 1, 3, 0x40, 0x21].drop 6).take (10 - 8)) = le16 [0, 1, 0, 0, 0, 5, 1, 3, 0x40, 0x21] (10 - 2))
        ∧ (cfgOf true true).strictLength = true ∧ (be16 [0, 1, 0, 0, 0, 5, 1, 3, 0x40, 0x21] 4).toNat ≠ 10 - 6)
    ∧ (fcValid (byteAt [0, 1, 0, 0, 0, 4, 1, 3, 0x40, 0x21] 7) = true
        ∧ ((cfgOf true true).checkCrc = true →
            crc16 (([0, 1, 0, 0, 0, 4, 1, 3, 0x40, 0x21].drop 6).take (10 - 8)) = le16 [0, 1, 0, 0, 0, 4, 1, 3, 0x40, 0x21] (10 - 2))
        ∧ ((cfgOf true true).strictLength = true → (be16 [0, 1, 0, 0, 0, 4, 1, 3, 0x40, 0x21] 4).toNat = 10 - 6)) := by decide

theorem test_hyps_RtuTcpIsRtuOfTail : Config.default.strictLength = false ∧ 6 ≤ [(0 : Byte), 1, 0, 0, 0, 8].length := by decide

theorem test_hyps_HeaderHasNoEffect :
    Config.default.strictLength = false ∧ [(0 : Byte), 1, 0, 0, 0, 8].length = 6 ∧ [(0xFF : Byte), 2, 3, 4, 5, 6].length = 6 := by decide

set_option maxRecDepth 20000 in
theorem test_hyps_LaidOutFrameDecodes :
    fcValid 3 = true ∧ [(0 : Byte), 1, 0, 0, 0, 4].length = 6 ∧ ((cfgOf true true).checkCrc = true → (0x2140 : Half) = crc16 [1, 3])
    ∧ ((cfgOf true true).strictLength = true → (be16 [0, 1, 0, 0, 0, 4] 4).toNat = [(1 : Byte), 2].length + 2)
    ∧ ((cfgOf true true).strictLength = true → (be16 [0, 1, 0, 0, 0, 4] 4).toNat = ([] : List Byte).length + 4) := by decide

theorem test_hyps_PayloadFits_DecodedFrameShape :
    decodeFrame Config.default .rtu [1, 3, 0x40, 0x21] = .ok ⟨1, 3, [], some 0x2140⟩
    ∧ [(1 : Byte), 3, 0x40, 0x21].length ≤ Config.default.maxLen := by decide

theorem test_hyps_idle : (ready Config.default [1, 3]).inst.busy = false ∧ State.reset.inst.busy = false := by decide

theorem test_hyps_busy : (pending .rtu [1, 3]).inst.busy = true := by decide

theorem test_hyps_DecodesAreStateless :
    let s := ready Config.default [1, 3, 0x40, 0x21]
    let u := { decoded with inst := { decoded.inst with inLen := 4, inBuf := (s.inst.inBuf.write 9 8) } }
    s.inst.busy = false ∧ u.inst.busy = false ∧ s.inst.cfg = u.inst.cfg ∧ s.inst.inLen = u.inst.inLen
    ∧ ∀ k, k < s.inst.inLen.toNat → ∃ b, s.inst.inBuf.read k = some b ∧ u.inst.inBuf.read k = some b := by
  refine ⟨by decide, by decide, by decide, by decide, fun k hk => ?_⟩
  have : k < 4 := hk
  obtain rfl | rfl | rfl | rfl : k = 0 ∨ k = 1 ∨ k = 2 ∨ k = 3 := by omega
  all_goals exact ⟨_, rfl, rfl⟩

/-- RegisterLayout: the parameters at both ends of their range. -/
theorem test_hyps_RegisterLayout :
    (Instance.initial { Config.default with maxLen := 14 }).cfg.wellFormed = true
    ∧ (Instance.initial { Config.default with maxLen := 4096 }).cfg.wellFormed = true := by decide

/-- OffsetMap: every clause at the edges of its range, for MAX_LEN 260 and 4096. -/
theorem test_hyps_OffsetMap :
    targetOf 260 0x18 4 = .ok (.reg .param) ∧ targetOf 260 0x1B 4 = .error .misaligned ∧ targetOf 260 0x1B 2 = .error .accessWidth
    ∧ targetOf 260 0xFFF 1 = .error .unmapped ∧ targetOf 260 0x1000 1 = .ok (.inBuf 0)
    ∧ targetOf 260 0x1103 1 = .ok (.inBuf 259) ∧ targetOf 260 0x1FFF 1 = .error .unmapped
    ∧ targetOf 260 0x2000 1 = .ok (.dataBuf 0) ∧ targetOf 260 0x2103 2 = .error .accessWidth
    ∧ targetOf 260 0x2104 1 = .error .unmapped ∧ targetOf 4096 0x1FFF 1 = .ok (.inBuf 4095)
    ∧ targetOf 4096 0x2FFF 1 = .ok (.dataBuf 4095) ∧ targetOf 4096 0x3000 1 = .error .unmapped := by decide

theorem test_hyps_RegisterRead_BufferRead :
    decoded.inst.busy = false ∧ decoded.inst.inBuf.read 0 = some 1 ∧ decoded.inst.dataBuf.read 3 = some 3
    ∧ (pending .rtu [1, 3]).inst.inBuf.read 1 = some 3 := by decide

/-- CmdWrite, InLenWrite, InBufWrite: a value on each side of each test. -/
theorem test_hyps_writes :
    (ready Config.default []).inst.busy = false ∧ (pending .rtu []).inst.busy = true
    ∧ ((3 : Word).extractLsb' 0 2 = 3 ∧ (4 : Word).extractLsb' 2 30 ≠ 0)
    ∧ ((2 : Word).extractLsb' 0 2 ≠ 3 ∧ (2 : Word).extractLsb' 2 30 = 0)
    ∧ ((0x2000 : Word).extractLsb' 13 19 ≠ 0 ∧ 260 < ((261 : Word).extractLsb' 0 13).toNat)
    ∧ ((260 : Word).extractLsb' 13 19 = 0 ∧ ((260 : Word).extractLsb' 0 13).toNat ≤ 260) := by decide

theorem test_hyps_WritesAreIdempotent :
    (∃ u, writeTarget (.reg .inLen) 4 (ready Config.default [1]) = .done u none)
    ∧ ∃ u, writeTarget (.inBuf 2) 4 (ready Config.default [1]) = .done u none := ⟨⟨_, rfl⟩, ⟨_, rfl⟩⟩

theorem test_hyps_WriteWhileBusyFaults :
    let s := pending .rtu [1, 3]
    s.inst.busy = true ∧ s.inst.owner = some 7 ∧ targetOf s.inst.cfg.maxLen 0 4 = .ok (.reg .cmd)
    ∧ targetOf s.inst.cfg.maxLen 4 4 = .ok (.reg .inLen) ∧ targetOf s.inst.cfg.maxLen 0x1103 1 = .ok (.inBuf 259) := by decide

/-- ReportOrder: one access for each place in the order, and the edges of the two values. -/
theorem test_hyps_ReportOrder :
    let s := ready Config.default [1]
    targetOf s.inst.cfg.maxLen 0x1C 4 = .error .unmapped ∧ targetOf s.inst.cfg.maxLen 0x18 4 = .ok (.reg .param)
    ∧ targetOf s.inst.cfg.maxLen 0x2000 1 = .ok (.dataBuf 0) ∧ targetOf s.inst.cfg.maxLen 0x1000 1 = .ok (.inBuf 0)
    ∧ (pending .rtu [1]).inst.busy = true ∧ targetOf s.inst.cfg.maxLen 0 4 = .ok (.reg .cmd) ∧ s.inst.busy = false
    ∧ 3 ≤ (3 : Word).toNat ∧ targetOf s.inst.cfg.maxLen 4 4 = .ok (.reg .inLen) ∧ s.inst.cfg.maxLen ≤ 4096
    ∧ s.inst.cfg.maxLen < (261 : Word).toNat := by decide

theorem test_hyps_RefusalSetsRefused :
    State.reset.inst.admits 3 ∧ decoded.inst.admits 7 ∧ targetOf decoded.inst.cfg.maxLen 0x3FFF 1 = .error .unmapped
    ∧ targetOf decoded.inst.cfg.maxLen 0 4 = .ok (.reg .cmd) ∧ writeTarget (.reg .cmd) 3 decoded = .refused .reservedCommand
    ∧ writeTarget (.reg .status) 0 (pending .rtu []) = .refused .readOnlyWrite
    ∧ decoded.inst.owner = some 7 ∧ 7 ≠ 8 := ⟨by decide, by decide, rfl, rfl, rfl, rfl, by decide, by decide⟩

/-- InLenWrite, InBufWrite: accepted over the bus, as the host's first access and as a later one. -/
theorem test_hyps_accepted_writes :
    State.reset.inst.busy = false ∧ State.reset.inst.admits 3 ∧ decoded.inst.busy = false ∧ decoded.inst.admits 7
    ∧ targetOf decoded.inst.cfg.maxLen 4 4 = .ok (.reg .inLen) ∧ targetOf decoded.inst.cfg.maxLen 0x1103 1 = .ok (.inBuf 259) := by
  decide

/-- A host's first access, and one by the host while a decode is pending. -/
theorem test_hyps_ReadsHaveNoSideEffect :
    State.reset.inst.admits 3 ∧ targetOf State.reset.inst.cfg.maxLen 8 4 = .ok (.reg .status)
    ∧ (pending .rtu []).inst.admits 7 ∧ targetOf (pending .rtu []).inst.cfg.maxLen 0x2000 1 = .ok (.dataBuf 0) := by decide

/-- An access line, a `wait` and a `result`; an address of the followed instance, and one of no instance, by an agent that serves each. -/
theorem test_hyps_StepRunsLine :
    let s := { doing decoded (.access (.read 4 0x8000)) with peers := [neighbour] }
    s.nextDecoder = none ∧ s.program = [⟨9, 7, .access (.read 4 0x8000)⟩] ∧ opNow (.access (.read 4 0x8000)) = some (.read 4 0x8000)
    ∧ opNow (.wait 0) = some (.read 4 8) ∧ opNow (.result 0) = some (.read 4 8) ∧ s.place 8 = .focus ∧ s.place 0x8000 = .nowhere
    ∧ s.home 7 = .focus ∧ s.home 8 = .peer 0 ∧ (s.beginLine ⟨9, 8, .wait 0⟩ []).peers[0]? = some neighbour.tick := by decide

theorem test_hyps_StepRunsCommand :
    let s := doing decoded (.access (.write 4 0 2))
    decode 2 = .ok .decodeRtuTcp ∧ s.nextDecoder = none ∧ s.program = [⟨9, 7, .access (.write 4 s.inst.cfg.base 2)⟩]
    ∧ covers s.inst.cfg s.inst.cfg.base = true ∧ s.inst.admits 7 := by decide

theorem test_hyps_StepRunsDecoder :
    ((pending .rtu [1, 3]).inst.busy = true ∧ (pending .rtu [1, 3]).program = [])
    ∧ (let s := doing (pending .rtu [1, 3]) (.access (.read 4 8))
       let u := { s with inst := { s.inst with delay := 0 } }
       u.inst.busy = true ∧ u.inst.delay = 0)
    ∧ (let s := { decoded with peers := [neighbour] }
       s.inst.busy = false ∧ (∀ p ∈ s.peers, p.busy = false) ∧ s.program = []) := by decide

theorem test_hyps_StepResets :
    let s := doing (pending .tcp [1, 3]) (.reset 0)
    s.nextDecoder = none ∧ s.program = [⟨9, 7, .reset s.inst.cfg.base⟩] ∧ covers s.inst.cfg s.inst.cfg.base = true := by decide

/-- An instance with a decode pending, and one with a result, meet the invariant. -/
theorem test_hyps_Inv : (pending .rtu [1, 3]).inst.Inv ∧ decoded.inst.Inv := by
  constructor <;> constructor <;> decide

theorem test_hyps_StepKeepsInv :
    let s := { doing (pending .rtu [1, 3]) (.access (.read 4 8)) with peers := [neighbour] }
    s.Inv ∧ ∃ t, step s = .next t := by
  refine ⟨⟨by constructor <;> decide, ?_, by decide⟩, _, rfl⟩
  intro p hp
  obtain rfl : p = neighbour := List.mem_singleton.mp hp
  constructor <;> decide

/-- RecordsAreNeverCleared, ConfigurationIsFixed: a peer that has records. -/
theorem test_hyps_peer :
    let q := { neighbour with refused := true, faults := [⟨.hostWriteWhileBusy, 3⟩] }
    let s := { doing decoded (.reset 0x4000) with peers := [q] }
    s.peers[0]? = some q ∧ ∃ t, step s = .next t := ⟨rfl, _, rfl⟩

/-- BusyChangesOnlyBy: BUSY falls at the decoder step and at a reset, and rises at a command. -/
theorem test_hyps_BusyChangesOnlyBy :
    (∃ t, step (pending .rtu [1, 3]) = .next t ∧ t.inst.busy = false)
    ∧ (∃ t, step (doing (pending .rtu [1, 3]) (.reset 0)) = .next t ∧ t.inst.busy = false)
    ∧ ∃ t, step (doing decoded (.access (.write 4 0 1))) = .next t ∧ t.inst.busy = true :=
  ⟨⟨_, rfl, rfl⟩, ⟨_, rfl, rfl⟩, ⟨_, rfl, rfl⟩⟩

/-- InputsFixedWhileBusy: a step that leaves the decode pending, and one that ends it. -/
theorem test_hyps_InputsFixedWhileBusy :
    (∃ t, step (doing (pending .rtu [1, 3]) (.access (.write 4 4 8))) = .next t ∧ t.inst.busy = true)
    ∧ ∃ t, step (pending .rtu [1, 3]) = .next t ∧ t.inst.valid = true := ⟨⟨_, rfl, rfl⟩, ⟨_, rfl, rfl⟩⟩

theorem test_hyps_ResultStaysUntilCommand :
    decoded.inst.valid = true ∧ decoded.inst.busy = false
    ∧ ∃ t, step (doing decoded (.access (.write 1 0x1000 0x11))) = .next t ∧ t.inst.valid = true := ⟨rfl, rfl, _, rfl, rfl⟩

/-- InstancesAreIsolated, PeersBehaveAlike: an access, a `wait`, a `result` and a reset at each of the two instances. -/
theorem test_hyps_InstancesAreIsolated :
    let s := { doing decoded (.wait 0x4000) with peers := [neighbour] }
    s.nextDecoder = none ∧ s.program = [⟨9, 7, .wait 0x4000⟩] ∧ opNow (.wait 0x4000) = some (.read 4 0x4008)
    ∧ s.place (opAddr (.wait 0x4000)) = .peer 0 ∧ s.place (opAddr (.resultTail 0x4000)) = .peer 0
    ∧ s.place (opAddr (.access (.write 4 0x7FFF 2))) = .peer 0 ∧ s.peers[0]? = some neighbour
    ∧ s.place (opAddr (.access (.read 4 0x3FFC))) = .focus ∧ s.place (opAddr (.result 0)) = .focus
    ∧ s.place (opAddr (.reset 0x4000)) = .peer 0 ∧ s.place (opAddr (.reset 0)) = .focus
    ∧ (pending .rtu [1, 3]).nextDecoder = some .focus := by decide

/-- InstancesAreIsolated, PeerEvents: the decoder step of the other instance is due, and a reset of it comes next. -/
theorem test_hyps_PeerEvents :
    let p := { neighbour with busy := true }
    let s := { decoded with peers := [p] }
    let u := { doing decoded (.reset 0x4000) with peers := [neighbour] }
    s.nextDecoder = some (.peer 0) ∧ s.peers[0]? = some p
    ∧ u.nextDecoder = none ∧ u.program = [⟨9, 7, .reset 0x4000⟩] ∧ u.place 0x4000 = .peer 0 ∧ u.peers[0]? = some neighbour := by decide

/-- RunEnds: a run that has ended although another host waits at another instance, and one that has not. -/
theorem test_hyps_RunEnds :
    let s := { decoded with peers := [neighbour] }
    let u := { s with program := [⟨9, 8, .wait 0x4000⟩] }
    s.program = [] ∧ s.inst.busy = false ∧ u.inst.owner ≠ some 8 ∧ u.place (opAddr (.wait 0x4000)) = .peer 0
    ∧ u.ended ∧ u.good ∧ ¬ (doing s (.wait 0)).ended := by decide

theorem test_step_of_ended :
    ∃ t, step { decoded with peers := [neighbour], program := [⟨9, 8, .wait 0x4000⟩] } = .next t ∧ t.program = [⟨9, 8, .wait 0x4000⟩]
      ∧ t.inst.reads = [] := ⟨_, rfl, by decide, by decide⟩

/-- An access to an address of no instance is refused where the agent serves. -/
theorem test_unmapped_address :
    let s := { decoded with peers := [neighbour] }
    (s.busAccess 8 (.read 4 0x8000)).1.inst.refused = false ∧ (s.busAccess 8 (.read 4 0x8000)).1.peers.map Instance.refused = [true]
    ∧ (s.busAccess 7 (.read 4 0x8000)).1.inst.refused = true := by decide

theorem test_hyps_WaitEnds :
    let s := doing (pending .rtu [1, 3]) (.wait 0)
    s.inst.Inv ∧ s.inst.busy = true ∧ s.inst.admits 7 ∧ s.program = [⟨9, 7, .wait s.inst.cfg.base⟩] := by
  refine ⟨by constructor <;> decide, by decide, by decide, by decide⟩

end Sys2Proof.Tests
end

section
/-! PROOF. What a successful decode and one step of the machine are, and with it O15 and O42 (spec/00_scope.md). -/

namespace Sys2Proof.Machine

/-- `fcValid` in numbers (R88). -/
theorem fcValid_iff {x : Byte} : fcValid x = true ↔ 1 ≤ x.toNat ∧ x.toNat ≤ 127 := by
  simp [fcValid]

/-! ### Successful decodes -/

section
variable {cfg : Config} {frame : List Byte} {f : DecodedFrame}

/-- DECODE.RTU succeeds only past its function code check, and it always reports the CRC (R97, R102). -/
theorem decodeRtu_ok_shape (h : decodeRtu cfg frame = .ok f) : fcValid f.functionCode = true ∧ f.crc.isSome = true := by
  obtain ⟨-, hd⟩ | ⟨-, -, hd⟩ | ⟨-, -, -, -, hd⟩ | ⟨-, hfc, -, hd⟩ := decodeRtu_cases cfg frame <;> rw [hd] at h <;> cases h
  exact ⟨hfc, rfl⟩

/-- DECODE.TCP succeeds only past its function code check, and it never reports a CRC (R105, R111). -/
theorem decodeTcp_ok_shape (h : decodeTcp cfg frame = .ok f) : fcValid f.functionCode = true ∧ f.crc = none := by
  obtain ⟨-, hd⟩ | ⟨-, -, hd⟩ | ⟨-, -, -, hd⟩ | ⟨-, hfc, -, hd⟩ := decodeTcp_cases cfg frame <;> rw [hd] at h <;> cases h
  exact ⟨hfc, rfl⟩

/-- DECODE.RTUTCP succeeds only with the result of the inner RTU decode (R114). -/
theorem decodeRtu_of_decodeRtuTcp_ok (h : decodeRtuTcp cfg frame = .ok f) :
    decodeRtu cfg (bytesFromTo frame 6 frame.length) = .ok f := by
  obtain ⟨-, hd⟩ | ⟨-, hd⟩ | ⟨-, -, hd⟩ := decodeRtuTcp_cases cfg frame <;> rw [hd] at h
  · cases h
  · exact h
  · cases h

/-- What the three variants have in common: a valid function code, and a CRC exactly with RTU framing (R38, R86). -/
theorem decodeFrame_ok_shape {v : Variant} (h : decodeFrame cfg v frame = .ok f) :
    fcValid f.functionCode = true ∧ (f.crc.isSome = true ↔ v ≠ .tcp) := by
  cases v with
  | rtu =>
    obtain ⟨hfc, hcrc⟩ := decodeRtu_ok_shape h
    simp [hfc, hcrc]
  | tcp =>
    obtain ⟨hfc, hcrc⟩ := decodeTcp_ok_shape h
    simp [hfc, hcrc]
  | rtuTcp =>
    obtain ⟨hfc, hcrc⟩ := decodeRtu_ok_shape (decodeRtu_of_decodeRtuTcp_ok h)
    simp [hfc, hcrc]

end

/-- Settles O15, from what each of the three decodes can answer. -/
theorem decodedFrameShape : Obligations.DecodedFrameShape := by
  unfold Obligations.DecodedFrameShape
  intro cfg v B f h
  obtain ⟨hfc, hcrc⟩ := decodeFrame_ok_shape h
  obtain ⟨hlow, hhigh⟩ := fcValid_iff.1 hfc
  exact ⟨hlow, hhigh, hcrc⟩

/-! ### The three kinds of step -/

/-- R95: a due decoder step comes before any line of the host program. -/
theorem step_of_nextDecoder_some {s : State} {p : Place} (h : s.nextDecoder = some p) :
    step s = .next (s.tick.atPlace p fun t => (decoderStep t, none)).1 := by
  simp only [step, advance, h]

/-- R60: with no decoder step due, the next event is the next line of the host program. -/
theorem step_of_program_cons {s : State} {l : HostLine} {rest : List HostLine} (h : s.nextDecoder = none)
    (hp : s.program = l :: rest) : step s = .next (hostLine l (s.beginLine l rest)) := by
  simp only [step, advance, h, hp]

/-- R137, R140: with nothing due and nothing left to do, the block is idle. -/
theorem step_of_program_nil {s : State} (h : s.nextDecoder = none) (hp : s.program = []) : step s = .next s := by
  simp only [step, advance, h, hp]

/-- Settles O42: whichever event comes next (a decoder step, a line of the host program, or none), it has a next state. -/
theorem stepAlwaysAnswers : Obligations.StepAlwaysAnswers := by
  unfold Obligations.StepAlwaysAnswers
  intro s
  cases hd : s.nextDecoder with
  | some p => exact ⟨_, step_of_nextDecoder_some hd⟩
  | none =>
    cases hp : s.program with
    | nil => exact ⟨_, step_of_program_nil hd hp⟩
    | cons l rest => exact ⟨_, step_of_program_cons hd hp⟩

end Sys2Proof.Machine
end

section
/-! PROOF. What a step does to one instance: its configuration and records, the frame it decodes, and the invariant; with these
O23, O44, O45, O46 and O47 (spec/10_state.md). -/

namespace Sys2Proof.Machine

/-! ### From an event at one instance to a step of the system -/

/-- No instance goes: what stood at a place in the list still stands there, after some event. -/
theorem step_peer {s t : State} (h : step s = .next t) {k : Nat} {p : Instance} (hp : s.peers[k]? = some p) :
    ∃ q, t.peers[k]? = some q ∧ InstEvent p q := by
  obtain ⟨-, hpeers, hlen⟩ := step_events h
  have hk : k < t.peers.length := hlen ▸ (List.getElem?_eq_some_iff.1 hp).1
  have hq : t.peers[k]? = some t.peers[k] := List.getElem?_eq_getElem hk
  obtain ⟨x, hx, he⟩ := hpeers k _ hq
  obtain rfl : p = x := Option.some.inj (hp.symm.trans hx)
  exact ⟨_, hq, he⟩

/-! ### The configuration (R43) -/

theorem AccessEffect.cfg_eq {x y : Instance} (h : AccessEffect x y) : y.cfg = x.cfg := by
  cases h <;> rfl

theorem InstEvent.cfg_eq {x y : Instance} (h : InstEvent x y) : y.cfg = x.cfg := by
  cases h with
  | idle => rfl
  | passed => rfl
  | decoded d _ => simp
  | accessed agent ha => exact ha.cfg_eq
  | reset => rfl
  | stray => rfl

/-- Settles O47: no event changes an instance's configuration, and the list of instances keeps its length. -/
theorem configurationIsFixed : Obligations.ConfigurationIsFixed := by
  unfold Obligations.ConfigurationIsFixed
  intro s t h
  obtain ⟨hinst, -, hlen⟩ := step_events h
  refine ⟨hinst.cfg_eq, List.ext_getElem (by simpa using hlen) fun k hk hk' => ?_⟩
  rw [List.length_map] at hk hk'
  obtain ⟨q, hq, he⟩ := step_peer h (List.getElem?_eq_getElem hk')
  rw [List.getElem?_eq_getElem hk] at hq
  cases hq
  simpa using he.cfg_eq

/-! ### FAULTS and REFUSED (R45) -/

theorem AccessEffect.keeps_records {x y : Instance} (h : AccessEffect x y) :
    x.faults ⊆ y.faults ∧ (x.refused = true → y.refused = true) := by
  cases h with
  | read v => exact ⟨fun _ hr => hr, id⟩
  | fault line _ => exact ⟨List.subset_insert _ _, id⟩
  | refused r => exact ⟨fun _ hr => hr, fun _ => rfl⟩
  | command v d n _ => exact ⟨fun _ hr => hr, id⟩
  | inLen n _ _ => exact ⟨fun _ hr => hr, id⟩
  | inBuf i b _ _ => exact ⟨fun _ hr => hr, id⟩

theorem InstEvent.keeps_records {x y : Instance} (h : InstEvent x y) :
    x.faults ⊆ y.faults ∧ (x.refused = true → y.refused = true) := by
  cases h with
  | idle => exact ⟨fun _ hr => hr, id⟩
  | passed => exact ⟨fun _ hr => hr, id⟩
  | decoded d _ => simp
  | accessed agent ha => exact ha.keeps_records
  | reset => exact ⟨fun _ hr => hr, id⟩
  | stray => exact ⟨fun _ hr => hr, fun _ => rfl⟩

/-- Settles O46: no event at an instance clears a record of it. -/
theorem recordsAreNeverCleared : Obligations.RecordsAreNeverCleared := by
  unfold Obligations.RecordsAreNeverCleared
  intro s t h
  refine ⟨(step_events h).1.keeps_records, fun k p hp => ?_⟩
  obtain ⟨q, hq, he⟩ := step_peer h hp
  exact ⟨q, hq, he.keeps_records⟩

/-! ### What a decode's result can be -/

/-- R96: the payload of a decoded frame is at least four bytes shorter than the frame. -/
theorem decodeRtu_ok_length {cfg : Config} {frame : List Byte} {f : DecodedFrame} (h : decodeRtu cfg frame = .ok f) :
    f.data.length + 4 ≤ frame.length := by
  obtain ⟨-, hd⟩ | ⟨-, -, hd⟩ | ⟨-, -, -, -, hd⟩ | ⟨hn, -, -, hd⟩ := decodeRtu_cases cfg frame <;> rw [hd] at h <;> cases h
  rw [bytesFromTo_length]
  omega

theorem decodeTcp_ok_length {cfg : Config} {frame : List Byte} {f : DecodedFrame} (h : decodeTcp cfg frame = .ok f) :
    f.data.length + 4 ≤ frame.length := by
  obtain ⟨-, hd⟩ | ⟨-, -, hd⟩ | ⟨-, -, -, hd⟩ | ⟨hn, -, -, hd⟩ := decodeTcp_cases cfg frame <;> rw [hd] at h <;> cases h
  rw [bytesFromTo_length]
  omega

theorem decodeFrame_ok_length {cfg : Config} {v : Variant} {frame : List Byte} {f : DecodedFrame}
    (h : decodeFrame cfg v frame = .ok f) : f.data.length + 4 ≤ frame.length := by
  cases v with
  | rtu => exact decodeRtu_ok_length h
  | tcp => exact decodeTcp_ok_length h
  | rtuTcp =>
    have inner := decodeRtu_ok_length (decodeRtu_of_decodeRtuTcp_ok h)
    rw [bytesFromTo_length] at inner
    omega

theorem decodeRtu_invalidCrc {cfg : Config} {frame : List Byte} (h : decodeRtu cfg frame = .err .invalidCrc) :
    cfg.checkCrc = true := by
  obtain ⟨-, hd⟩ | ⟨-, -, hd⟩ | ⟨-, -, hc, -, -⟩ | ⟨-, -, -, hd⟩ := decodeRtu_cases cfg frame
  · rw [hd] at h; cases h
  · rw [hd] at h; cases h
  · exact hc
  · rw [hd] at h; cases h

/-- R90, R122: InvalidCRC arises only with CHECK_CRC and RTU framing. -/
theorem decodeFrame_invalidCrc {cfg : Config} {v : Variant} {frame : List Byte}
    (h : decodeFrame cfg v frame = .err .invalidCrc) : cfg.checkCrc = true ∧ v ≠ .tcp := by
  cases v with
  | rtu => exact ⟨decodeRtu_invalidCrc h, by simp⟩
  | tcp =>
    change decodeTcp cfg frame = _ at h
    obtain ⟨-, hd⟩ | ⟨-, -, hd⟩ | ⟨-, -, -, hd⟩ | ⟨-, -, -, hd⟩ := decodeTcp_cases cfg frame <;> rw [hd] at h <;> cases h
  | rtuTcp =>
    change decodeRtuTcp cfg frame = _ at h
    obtain ⟨-, hd⟩ | ⟨-, hd⟩ | ⟨-, -, hd⟩ := decodeRtuTcp_cases cfg frame <;> rw [hd] at h
    · cases h
    · exact ⟨decodeRtu_invalidCrc h, by simp⟩
    · cases h

/-! ### The invariant of an instance -/

theorem Config.maxLen_le_of_wellFormed {c : Config} (h : c.wellFormed = true) : c.maxLen ≤ 4096 := by
  simp only [Config.wellFormed, Bool.and_eq_true, decide_eq_true_eq] at h
  obtain ⟨⟨⟨⟨-, hmax⟩, -⟩, -⟩, -⟩ := h
  exact hmax

/-- R44: an instance at the start of a run meets the invariant, if its parameters are legal. -/
theorem Instance.initial_inv {c : Config} (h : c.wellFormed = true) : (Instance.initial c).Inv where
  legalCfg := h
  lengthLegal := Nat.zero_le _
  inBufWf := List.Pairwise.nil
  inBufWithin := by simp [Memory.within]
  dataBufWf := List.Pairwise.nil
  dataBufWithin := by simp [Memory.within]
  notBoth := by simp
  beforeFirst := fun _ _ => ⟨rfl, rfl, rfl, rfl, rfl, rfl, rfl⟩
  afterSuccess := by simp
  afterFailure := by simp
  crcError := by simp

/-- Settles O45: the one instance at reset is an initial one, and there is no other. -/
theorem resetHasInv : Obligations.ResetHasInv where
  followed := Instance.initial_inv (by decide)
  others := by simp [State.reset]
  bases := by simp [State.reset]

namespace Instance.Inv

variable {x : Instance} (h : x.Inv)
include h

/-- The invariant does not look at the records, the observation, the host or the delay. -/
theorem of_bookkeeping (fs : List FaultRecord) (rf : Bool) (rs : List Word) (o : Option Nat) (n : Nat) :
    Instance.Inv { x with faults := fs, refused := rf, reads := rs, owner := o, delay := n } where
  legalCfg := h.legalCfg
  lengthLegal := h.lengthLegal
  inBufWf := h.inBufWf
  inBufWithin := h.inBufWithin
  dataBufWf := h.dataBufWf
  dataBufWithin := h.dataBufWithin
  notBoth := h.notBoth
  beforeFirst := h.beforeFirst
  afterSuccess := h.afterSuccess
  afterFailure := h.afterFailure
  crcError := h.crcError

theorem tick : x.tick.Inv := h.of_bookkeeping x.faults x.refused x.reads x.owner _

theorem claim (agent : Nat) : (x.claim agent).Inv := h.of_bookkeeping x.faults x.refused x.reads _ x.delay

theorem observe (v : Word) : (x.observe v).Inv := h.of_bookkeeping x.faults x.refused _ x.owner x.delay

theorem addFault (f : Fault) (line : Nat) : (x.addFault f line).Inv := h.of_bookkeeping _ x.refused x.reads x.owner x.delay

theorem refuse (r : Refusal) : (x.refuse r).Inv := h.of_bookkeeping x.faults _ x.reads x.owner x.delay

/-- A reset leaves the registers and buffers of an initial instance. -/
theorem hardReset : x.hardReset.Inv :=
  (Instance.initial_inv h.legalCfg).of_bookkeeping x.faults x.refused x.reads x.owner 0

/-- An accepted command leaves BUSY = 1 and VALID = 0, where the invariant says nothing of the result (R39). -/
theorem accept (v : Variant) (d n : Nat) : (x.accept v d n).Inv where
  legalCfg := h.legalCfg
  lengthLegal := h.lengthLegal
  inBufWf := h.inBufWf
  inBufWithin := h.inBufWithin
  dataBufWf := List.Pairwise.nil
  dataBufWithin := by simp [Memory.within]
  notBoth := by simp
  beforeFirst := by simp
  afterSuccess := by simp
  afterFailure := by simp
  crcError := by simp

theorem setInLen {n : BitVec 13} (hn : n.toNat ≤ x.cfg.maxLen) : Instance.Inv { x with inLen := n } :=
  { h with lengthLegal := hn }

theorem writeInBuf {i : Nat} (b : Byte) (hi : i < x.cfg.maxLen) : Instance.Inv { x with inBuf := x.inBuf.write i b } :=
  { h with inBufWf := Memory.write_wf h.inBufWf, inBufWithin := Memory.write_within h.inBufWithin hi }

theorem of_accessEffect {y : Instance} (he : AccessEffect x y) : y.Inv := by
  cases he with
  | read v => exact h.observe v
  | fault line _ => exact h.addFault _ line
  | refused r => exact h.refuse r
  | command v d n _ => exact h.accept v d n
  | inLen n _ hn => exact h.setInLen hn
  | inBuf i b _ hi => exact h.writeInBuf b hi

/-- R33, R38: what Commit leaves of a decoded frame that fits. -/
theorem commit_ok {f : DecodedFrame} (hfc : fcValid f.functionCode = true) (hlen : f.data.length + 4 ≤ x.cfg.maxLen)
    (hcrc : f.crc.isSome = true ↔ x.variant ≠ .tcp) : (x.commit (.ok f)).Inv := by
  have hmax := Config.maxLen_le_of_wellFormed h.legalCfg
  have hdl : (BitVec.ofNat 13 f.data.length).toNat = f.data.length := by
    rw [BitVec.toNat_ofNat]
    exact Nat.mod_eq_of_lt (by omega)
  exact
    { legalCfg := h.legalCfg
      lengthLegal := h.lengthLegal
      inBufWf := h.inBufWf
      inBufWithin := h.inBufWithin
      dataBufWf := Memory.holding_wf 0 f.data
      dataBufWithin := fun c hc => by
        have := Memory.holding_within 0 f.data c hc
        simp only [commit_ok_cfg]
        omega
      notBoth := by simp
      beforeFirst := by simp
      afterSuccess := fun _ _ => by
        refine ⟨hfc, ?_, ?_, hcrc, fun hnone => ?_⟩
        · simp only [commit_ok_dataBuf, commit_ok_dataLen, hdl, Memory.holding_indexes, List.range_eq_range']
        · simpa only [commit_ok_dataLen, commit_ok_cfg, hdl] using hlen
        · have : f.crc = none := by simpa [crcPresentOf] using hnone
          simp [this, crcValueOf]
      afterFailure := fun _ hc => absurd (commit_ok_code x f) hc
      crcError := fun _ hc => by simp at hc }

/-- R40: what Commit leaves of an error. -/
theorem commit_err {k : ErrorKind} (hcrc : k = .invalidCrc → x.cfg.checkCrc = true ∧ x.variant ≠ .tcp) :
    (x.commit (.err k)).Inv where
  legalCfg := h.legalCfg
  lengthLegal := h.lengthLegal
  inBufWf := h.inBufWf
  inBufWithin := h.inBufWithin
  dataBufWf := List.Pairwise.nil
  dataBufWithin := by simp [Memory.within]
  notBoth := by simp
  beforeFirst := by simp
  afterSuccess := fun _ hc => by cases k <;> simp [errorCode] at hc
  afterFailure := fun _ _ => ⟨rfl, rfl, rfl, rfl, rfl, rfl⟩
  crcError := fun _ hc => hcrc (by cases k <;> simp [errorCode] at hc ⊢)

/-- R95: the decoder step of a frame that IN_BUF can hold. -/
theorem commit_decodeFrame {frame : List Byte} (hlen : frame.length ≤ x.cfg.maxLen) :
    (x.commit (decodeFrame x.cfg x.variant frame)).Inv := by
  cases hr : decodeFrame x.cfg x.variant frame with
  | ok f =>
    obtain ⟨hfc, hcrc⟩ := decodeFrame_ok_shape hr
    exact h.commit_ok hfc ((decodeFrame_ok_length hr).trans hlen) hcrc
  | err k => exact h.commit_err fun hk => decodeFrame_invalidCrc (hk ▸ hr)

theorem of_instEvent {y : Instance} (he : InstEvent x y) : y.Inv := by
  cases he with
  | idle => exact h
  | passed => exact h.tick
  | decoded d _ => exact h.tick.commit_decodeFrame (by rw [inBytes_length]; exact h.lengthLegal)
  | accessed agent ha => exact (h.tick.claim agent).of_accessEffect ha
  | reset => exact h.tick.hardReset
  | stray => exact h.tick.refuse _

end Instance.Inv

/-- The BASEs of all instances are a function of the configurations, which no step changes. -/
theorem step_bases {s t : State} (h : step s = .next t) :
    (t.inst :: t.peers).map (fun x => x.cfg.base) = (s.inst :: s.peers).map fun x => x.cfg.base := by
  obtain ⟨hinst, hpeers⟩ := configurationIsFixed s t h
  have hp : t.peers.map (fun x => x.cfg.base) = s.peers.map fun x => x.cfg.base := by
    simpa [Function.comp_def] using congrArg (List.map Config.base) hpeers
  rw [List.map_cons, List.map_cons, hinst, hp]

/-- Settles O44: every event keeps an instance's invariant, and no step moves an instance's BASE. -/
theorem stepKeepsInv : Obligations.StepKeepsInv := by
  unfold Obligations.StepKeepsInv
  intro s t hs h
  obtain ⟨hinst, hpeers, -⟩ := step_events h
  refine ⟨hs.followed.of_instEvent hinst, fun q hq => ?_, step_bases h ▸ hs.bases⟩
  obtain ⟨k, hk⟩ := List.mem_iff_getElem?.1 hq
  obtain ⟨x, hx, he⟩ := hpeers k q hk
  exact (hs.others x (List.mem_of_getElem? hx)).of_instEvent he

/-! ### A result depends on the frame alone -/

/-- Two buffers that define the same bytes at the offsets read give the same run of bytes, whatever is drawn. -/
theorem inBytes_congr {m m' : Memory} {i n : Nat} (d d' : Nat)
    (h : ∀ k, i ≤ k → k < i + n → ∃ b, m.read k = some b ∧ m'.read k = some b) : inBytes m d i n = inBytes m' d' i n := by
  induction n generalizing i with
  | zero => rfl
  | succ n ih =>
    obtain ⟨b, hm, hm'⟩ := h i (by omega) (by omega)
    rw [inBytes, inBytes, hm, hm', ih fun k hk hk' => h k (by omega) (by omega)]
    rfl

/-- R94: Commit sets every result register from the result alone. -/
theorem Instance.commit_sameResult (r : DecodeResult) (x y : Instance) : (x.commit r).sameResult (y.commit r) := by
  cases r <;> simp [Instance.sameResult]

/-- An accepted command (R26). -/
theorem startCommand_idle {s : State} (h : s.inst.busy = false) (v : Variant) : s.startCommand v =
    { s with inst := s.inst.accept v s.draws s.nextDelay, delays := s.delays.tail, draws := s.draws + 1 } := by
  simp [State.startCommand, h]

/-- The instance after an accepted command and its decoder step (R26, R95): the result of the frame, whatever was there before. -/
theorem decoderStep_startCommand {s : State} (h : s.inst.busy = false) (v : Variant) :
    (decoderStep (s.startCommand v)).inst = (s.inst.accept v s.draws s.nextDelay).commit
      (decodeFrame s.inst.cfg v (inBytes s.inst.inBuf (s.draws + 1) 0 s.inst.inLen.toNat)) := by
  rw [startCommand_idle h, decoderStep_busy (by rfl)]
  rfl

/-- Settles O23: the two frames are the same, because every byte of them is written, and Commit stores the result of the frame. -/
theorem decodesAreStateless : Obligations.DecodesAreStateless := by
  unfold Obligations.DecodesAreStateless
  intro i s u hs hu hcfg hlen hbytes
  refine ⟨_, _, exec_eq i s, exec_eq i u, ?_⟩
  have hframe : inBytes s.inst.inBuf (s.draws + 1) 0 s.inst.inLen.toNat = inBytes u.inst.inBuf (u.draws + 1) 0 u.inst.inLen.toNat :=
    hlen ▸ inBytes_congr _ _ fun k _ hk => hbytes k (by omega)
  rw [decoderStep_startCommand hs, decoderStep_startCommand hu, hcfg, hframe]
  exact Instance.commit_sameResult _ _ _

end Sys2Proof.Machine
end

section
/-! PROOF. The command word, the register words, and what a command, a write and a reset do; with these O16, O24, O28, O29 and O37
(spec/10_state.md, spec/30_encoding.md). -/

namespace Sys2Proof.Machine

/-! ### The command word (R68 to R70) -/

/-- Two fields side by side, as numbers. -/
theorem toNat_append_eq_add {m n : Nat} (a : BitVec m) (b : BitVec n) : (a ++ b).toNat = b.toNat + 2 ^ n * a.toNat := by
  rw [BitVec.toNat_append, ← Nat.shiftLeft_add_eq_or_of_lt b.isLt, Nat.shiftLeft_eq, Nat.mul_comm, Nat.add_comm]

/-- A word is its reserved bits above its VARIANT bits (R68). -/
theorem reserved_append_variant (w : Word) : w.extractLsb' 2 30 ++ w.extractLsb' 0 2 = w := by
  refine BitVec.eq_of_toNat_eq ?_
  rw [toNat_append_eq_add, BitVec.extractLsb'_toNat, BitVec.extractLsb'_toNat, Nat.shiftRight_zero, Nat.shiftRight_eq_div_pow]
  omega

/-- R69: an accepted word has no reserved bit set, and its VARIANT bits are the command's. -/
theorem decode_ok {w : Word} {i : Instr} (h : decode w = .ok i) : w.extractLsb' 2 30 = 0 ∧ w.extractLsb' 0 2 = i.variant.number := by
  unfold decode reservedField variantField at h
  split at h
  · cases h
  · next hr =>
    refine ⟨not_not.1 hr, BitVec.eq_of_toNat_eq ?_⟩
    split at h <;> cases h <;> assumption

/-- R70: the reserved words. -/
theorem decode_error {w : Word} (h : w.extractLsb' 0 2 = 3 ∨ w.extractLsb' 2 30 ≠ 0) : decode w = .error .reservedCommand := by
  cases hd : decode w with
  | error e => rfl
  | ok i =>
    obtain ⟨hres, hvar⟩ := decode_ok hd
    rcases h with h | h
    · rw [h] at hvar
      cases i <;> exact absurd hvar (by decide)
    · exact absurd hres h

/-- R69: every other word is a command. -/
theorem exists_decode_ok {w : Word} (hvar : w.extractLsb' 0 2 ≠ 3) (hres : w.extractLsb' 2 30 = 0) : ∃ i, decode w = .ok i := by
  have hne : (w.extractLsb' 0 2).toNat ≠ 3 := fun h => hvar (BitVec.eq_of_toNat_eq h)
  have hlt := (w.extractLsb' 0 2).isLt
  unfold decode reservedField variantField
  rw [if_neg (not_not.2 hres)]
  obtain h | h | h : (w.extractLsb' 0 2).toNat = 0 ∨ (w.extractLsb' 0 2).toNat = 1 ∨ (w.extractLsb' 0 2).toNat = 2 := by omega
  all_goals rw [h]; exact ⟨_, rfl⟩

theorem decode_encode (i : Instr) : decode (encode i) = .ok i := by
  cases i <;> decide

/-! ### Register words (R25 to R34) -/

/-- Settles O24, field by field; a legal MAX_LEN fits its 13 bits. -/
theorem registerLayout : Obligations.RegisterLayout := by
  unfold Obligations.RegisterLayout
  intro x hx
  have hmax : x.cfg.maxLen % 2 ^ 13 = x.cfg.maxLen :=
    Nat.mod_eq_of_lt (by have := Config.maxLen_le_of_wellFormed hx; omega)
  refine ⟨?_, ?_, ?_, ?_, ?_, ?_, ?_⟩ <;>
    simp only [Instance.regWord, Instance.paramWord, toNat_append_eq_add, BitVec.toNat_ofBool, BitVec.ofNat_eq_ofNat,
      BitVec.toNat_ofNat, Nat.zero_mod, hmax] <;> omega

/-- CMD reads as VARIANT, also while a decode is pending (R26, R39). -/
theorem readTarget_cmd (s : State) : readTarget (.reg .cmd) s = (s, s.inst.regWord .cmd) := by
  simp [readTarget, State.readReg, isResultReg]

/-! ### Writes to CMD and IN_LEN (R26, R27) -/

section
variable {w : Word} {s : State}

theorem writeCmd_of_decode_ok {i : Instr} (h : decode w = .ok i) : writeCmd w s = .done (s.startCommand i.variant) none := by
  simp only [writeCmd, h, exec_eq]

theorem writeCmd_of_decode_error (h : decode w = .error .reservedCommand) :
    writeCmd w s = if s.inst.busy then .faulted .hostWriteWhileBusy else .refused .reservedCommand := by
  simp only [writeCmd, h]

theorem startCommand_busy (h : s.inst.busy = true) (v : Variant) : s.startCommand v = s.recordFault .hostWriteWhileBusy := by
  simp [State.startCommand, h]

/-- R127, R142: while a decode is pending every CMD write is a fault, whatever the word. -/
theorem settle_writeCmd_busy (h : s.inst.busy = true) :
    settle s (writeCmd w s) = (s.recordFault .hostWriteWhileBusy, none) := by
  cases hd : decode w with
  | ok i => rw [writeCmd_of_decode_ok hd, startCommand_busy h]; rfl
  | error e => rw [writeCmd_of_decode_error hd, if_pos h]; rfl

theorem writeInLen_busy (h : s.inst.busy = true) : writeInLen w s = .faulted .hostWriteWhileBusy := if_pos h

theorem writeInLen_refused (h : s.inst.busy = false)
    (hw : w.extractLsb' 13 19 ≠ 0 ∨ s.inst.cfg.maxLen < (w.extractLsb' 0 13).toNat) :
    writeInLen w s = .refused .lengthOutOfRange := by
  rw [writeInLen, if_neg (by simp [h]), if_pos hw]

theorem writeInLen_accepted (h : s.inst.busy = false) (hres : w.extractLsb' 13 19 = 0)
    (hlen : (w.extractLsb' 0 13).toNat ≤ s.inst.cfg.maxLen) :
    writeInLen w s = .done { s with inst := { s.inst with inLen := w.extractLsb' 0 13 } } none := by
  rw [writeInLen, if_neg (by simp [h]), if_neg (not_or.2 ⟨not_not.2 hres, Nat.not_lt.2 hlen⟩)]
  rfl

end

/-- Settles O16: an idle instance accepts every command (R26). -/
theorem commandAccepted : Obligations.CommandAccepted := by
  unfold Obligations.CommandAccepted
  intro i s hs
  refine ⟨_, (exec_eq i s).trans (congrArg _ (startCommand_idle hs _)), ?_⟩
  simp [Instance.dataByte]

/-- Settles O28: the fault comes first, then the reserved words, and every other word is accepted (R26, R70). -/
theorem cmdWrite : Obligations.CmdWrite := by
  unfold Obligations.CmdWrite
  intro w s
  refine ⟨fun hb => congrArg Prod.fst (settle_writeCmd_busy hb), fun hb hw => ?_, fun hb hvar hres => ?_⟩
  · exact (writeCmd_of_decode_error (decode_error hw)).trans (if_neg (by simp [hb]))
  · obtain ⟨i, hi⟩ := exists_decode_ok hvar hres
    refine ⟨_, (writeCmd_of_decode_ok hi).trans (by rw [startCommand_idle hb]), ?_⟩
    obtain ⟨-, hv⟩ := decode_ok hi
    refine ⟨hv.symm, rfl, rfl, ?_⟩
    calc (readTarget (.reg .cmd) _).2 = (0 : BitVec 30) ++ i.variant.number := by rw [readTarget_cmd]; rfl
      _ = w.extractLsb' 2 30 ++ w.extractLsb' 0 2 := by rw [hres, hv]
      _ = w := reserved_append_variant w

/-! ### Host accesses (R67, R127) -/

/-- The state with the agent noted as the followed instance's host (R67; log 10). -/
def State.hostedBy (agent : Nat) (s : State) : State := { s with inst := { s.inst with owner := some agent } }

/-- What the first access of an agent, and every later one of the same agent, does to the note of the host. -/
theorem claim_of_admits {agent : Nat} {s : State} (h : s.inst.admits agent) : s.onInst (Instance.claim agent) = s.hostedBy agent := by
  rcases h with h | h <;> simp [State.onInst, State.hostedBy, Instance.claim, h]

/-- An access by an agent that the instance admits is carried out at its block offset. -/
theorem hostAccess_of_admits {agent : Nat} {s : State} (h : s.inst.admits agent) (a : Access) (off : Nat) :
    hostAccess agent a off s = settle (s.hostedBy agent) (blockAccess a off (s.hostedBy agent)) := by
  rw [hostAccess, claim_of_admits h, accessVerdict, if_pos (by rfl)]

theorem blockAccess_write {wd off : Nat} {t : Target} {s : State} (h : targetOf s.inst.cfg.maxLen off wd = .ok t)
    (addr : Nat) (w : Word) : blockAccess (.write wd addr w) off s = writeTarget t w s := by
  simp only [blockAccess, Access.width, h]

/-- A write by an agent that the instance admits, to a location that exists, is the write of that location. -/
theorem hostAccess_write {agent wd off : Nat} {t : Target} {s : State} (h : s.inst.admits agent)
    (ht : targetOf s.inst.cfg.maxLen off wd = .ok t) (addr : Nat) (w : Word) :
    hostAccess agent (.write wd addr w) off s = settle (s.hostedBy agent) (writeTarget t w (s.hostedBy agent)) := by
  rw [hostAccess_of_admits h, blockAccess_write (s := s.hostedBy agent) ht]

/-- Settles O29: the cases of R27, and the accepted write over the bus. -/
theorem inLenWrite : Obligations.InLenWrite := by
  unfold Obligations.InLenWrite
  intro w s
  refine ⟨writeInLen_busy, writeInLen_refused, fun hb hres hlen => ⟨writeInLen_accepted hb hres hlen, ?_⟩⟩
  intro agent wd addr off hadm ht
  rw [hostAccess_write hadm ht, writeTarget, writeInLen_accepted (s := s.hostedBy agent) hb hres hlen]
  rfl

/-! ### Reset (R44, R138) -/

theorem Instance.hardReset_regWord (x : Instance) {r : Reg} (h : r ≠ .param) : x.hardReset.regWord r = 0 := by
  cases r with
  | param => exact absurd rfl h
  | _ => simp [Instance.regWord, Variant.number]

/-- Settles O37, from what a reset leaves in each field. -/
theorem resetEvent : Obligations.ResetEvent := by
  unfold Obligations.ResetEvent
  intro s
  exact ⟨fun r hr => s.inst.hardReset_regWord hr, rfl, rfl, fun _ => rfl, fun _ => rfl, rfl, rfl, decoderStep_idle rfl, rfl⟩

end Sys2Proof.Machine
end

section
/-! PROOF. How a step runs a command, and what changes BUSY: O39 and O48 (spec/10_state.md R26, R36). -/

namespace Sys2Proof.Machine

/-! ### CMD on the bus (R25, R46, R48) -/

theorem regAt_eq_cmd {off : Nat} (h : regAt off = some .cmd) : off = 0 := by
  by_contra h0
  rw [regAt, if_neg h0] at h
  repeat' split at h
  all_goals cases h

/-- CMD is named by a 4-byte access at offset 0, and by no other. -/
theorem targetOf_eq_cmd {m off wd : Nat} : targetOf m off wd = .ok (.reg .cmd) ↔ off = 0 ∧ wd = 4 := by
  constructor
  · intro h
    unfold targetOf at h
    split at h
    · split at h
      · cases h
      · next hw =>
        split at h
        · next r hr =>
          cases h
          exact ⟨regAt_eq_cmd hr, not_not.1 hw⟩
        · cases h
    · repeat' split at h
      all_goals cases h
  · rintro ⟨rfl, rfl⟩
    rfl

/-- A word that decodes to a command, written to CMD by the instance's host, has that command's meaning (R26). -/
theorem hostAccess_command {agent addr : Nat} {i : Instr} {w : Word} {s : State} (h : s.inst.admits agent)
    (hw : decode w = .ok i) :
    hostAccess agent (.write 4 addr w) 0 s = ((s.hostedBy agent).startCommand i.variant, none) := by
  rw [hostAccess_write h (targetOf_eq_cmd.2 ⟨rfl, rfl⟩), writeTarget, writeCmd_of_decode_ok hw]
  rfl

/-! ### A step runs a command (R26, R60) -/

/-- The step of a line that writes a command to CMD. -/
theorem step_command {i : Instr} {w : Word} {s : State} {l : HostLine} {rest : List HostLine} (hw : decode w = .ok i)
    (hn : s.nextDecoder = none) (hp : s.program = l :: rest) (hl : l.op = .access (.write 4 s.inst.cfg.base w))
    (hc : covers s.inst.cfg s.inst.cfg.base = true) (ha : s.inst.admits l.agent) :
    step s = exec i ((s.beginLine l rest).hostedBy l.agent) := by
  have hplace : (s.beginLine l rest).place s.inst.cfg.base = .focus := place_focus.2 hc
  have hbus : (s.beginLine l rest).busAccess l.agent (.write 4 s.inst.cfg.base w)
      = (((s.beginLine l rest).hostedBy l.agent).startCommand i.variant, none) := by
    rw [busAccess_focus (a := .write 4 s.inst.cfg.base w) hplace]
    simp only [Access.addr, State.beginLine_inst, Instance.tick_cfg, Nat.sub_self]
    exact hostAccess_command ha hw
  rw [step_of_program_cons hn hp, exec_eq, hostLine, hl]
  simp only [opNow, opLater, hbus, List.map_nil, List.nil_append]

/-- After `placeCommand` no decoder step is due: a line is left to do, and every delay has an event to go. -/
theorem placeCommand_nextDecoder (w : Word) (s : State) : (s.placeCommand w).nextDecoder = none := by
  have hprogram : (s.placeCommand w).program.isEmpty = false := rfl
  have hinst : decoderDue false (s.placeCommand w).inst = false := by simp [decoderDue, State.placeCommand]
  have hpeers : (s.placeCommand w).peers.findIdx? (decoderDue false) = none := by
    refine List.findIdx?_eq_none_iff.2 fun p hp => ?_
    obtain ⟨q, -, rfl⟩ := List.mem_map.1 hp
    simp [decoderDue]
  simp [State.nextDecoder, hprogram, hinst, hpeers]

/-- The one event that the placed line takes undoes what `placeCommand` added to the delays. -/
theorem placeCommand_beginLine (w : Word) (s : State) (l : HostLine) (rest : List HostLine) :
    (s.placeCommand w).beginLine l rest = { s with program := rest, line := l.line } := by
  simp [State.beginLine, State.placeCommand, State.tick, Instance.tick, Function.comp_def]

/-- Settles O39, from the step of a line that writes a command; `withFetchWord` places such a line. -/
theorem stepRunsCommand : Obligations.StepRunsCommand := by
  unfold Obligations.StepRunsCommand
  refine ⟨fun i w s l rest hw hn hp hl hc ha => step_command hw hn hp hl hc ha, fun i s hc => ?_⟩
  have hword : s.withFetchWord 32 (encode i).toNat = s.placeCommand (encode i) := by
    rw [State.withFetchWord, Nat.mod_eq_of_lt (encode i).isLt, BitVec.ofNat_toNat, BitVec.setWidth_eq]
  have hadm : (s.placeCommand (encode i)).inst.admits (s.inst.owner.getD 0) := by
    cases ho : s.inst.owner <;> simp [Instance.admits, State.placeCommand, ho]
  rw [hword, step_command (decode_encode i) (placeCommand_nextDecoder _ s) rfl rfl hc hadm, placeCommand_beginLine]
  rfl

/-! ### What a decode stores (R30, R94, R95) -/

theorem inBytes_seesFrame (x : Instance) (d : Nat) : x.seesFrame (inBytes x.inBuf d 0 x.inLen.toNat) := by
  refine ⟨inBytes_length .., fun i b hi hb => ?_⟩
  rw [inBytes_length] at hi
  simp [inBytes_get _ _ _ _ _ hi, hb]

/-- R94: after Commit the result registers show the result, if its payload's length fits DATA_LEN. -/
theorem Instance.commit_shows (x : Instance) {r : DecodeResult} (h : ∀ f, r = .ok f → f.data.length < 2 ^ 13) :
    (x.commit r).shows r := by
  cases r with
  | ok f =>
    have hlen : (BitVec.ofNat 13 f.data.length).toNat = f.data.length := by
      rw [BitVec.toNat_ofNat, Nat.mod_eq_of_lt (h f rfl)]
    exact ⟨rfl, rfl, rfl, rfl, rfl, hlen, fun i => by simp [Memory.read_holding], rfl, rfl⟩
  | err k => exact ⟨rfl, rfl, rfl, rfl, rfl, rfl, rfl, rfl, rfl⟩

/-- R95: a frame that IN_LEN can present has a payload whose length fits DATA_LEN. -/
theorem Instance.commit_decodeFrame_shows (x : Instance) {cfg : Config} {v : Variant} {frame : List Byte} {n : BitVec 13}
    (hn : frame.length = n.toNat) : (x.commit (decodeFrame cfg v frame)).shows (decodeFrame cfg v frame) :=
  x.commit_shows fun _ hf => by
    have := decodeFrame_ok_length hf
    have := n.isLt
    omega

/-! ### What changes BUSY (R36) -/

/-- While a decode is pending, no access ends it. -/
theorem AccessEffect.busy_of_busy {x y : Instance} (h : AccessEffect x y) (hx : x.busy = true) : y.busy = true := by
  cases h with
  | command v d n _ => rfl
  | _ => exact hx

theorem InstEvent.busy_falls {x y : Instance} (h : InstEvent x y) (hx : x.busy = true) (hy : y.busy = false) :
    (∃ B, x.seesFrame B ∧ y.shows (decodeFrame x.cfg x.variant B)) ∨ y = x.hardReset := by
  cases h with
  | idle => simp [hx] at hy
  | passed => simp [hx] at hy
  | decoded d _ => exact .inl ⟨_, inBytes_seesFrame x d, x.tick.commit_decodeFrame_shows (inBytes_length ..)⟩
  | accessed agent ha => simp [ha.busy_of_busy hx] at hy
  | reset => exact .inr rfl
  | stray => simp [hx] at hy

theorem decoderStep_inst_busy (s : State) : (decoderStep s).inst.busy = false := by
  cases hb : s.inst.busy with
  | true => simp [decoderStep_busy hb]
  | false => rw [decoderStep_idle hb, hb]

/-- A write that leaves an idle instance busy is one of a command to CMD. -/
theorem settle_writeTarget_busy {t : Target} {w : Word} {s : State} (hs : s.inst.busy = false)
    (ht : (settle s (writeTarget t w s)).1.inst.busy = true) :
    t = .reg .cmd ∧ ∃ i d n, decode w = .ok i ∧ (settle s (writeTarget t w s)).1.inst = s.inst.accept i.variant d n := by
  cases t with
  | dataBuf i => simp [writeTarget, settle, hs] at ht
  | inBuf i => simp [writeTarget, writeInBuf, settle, hs] at ht
  | reg r =>
    cases r with
    | cmd =>
      refine ⟨rfl, ?_⟩
      rw [writeTarget] at ht ⊢
      cases hd : decode w with
      | ok i => exact ⟨i, _, _, rfl, by rw [writeCmd_of_decode_ok hd, startCommand_idle hs]; rfl⟩
      | error e => simp [writeCmd_of_decode_error hd, settle, hs] at ht
    | inLen =>
      rw [writeTarget, writeInLen, if_neg (by simp [hs])] at ht
      split at ht <;> simp [settle, hs] at ht
    | _ => simp [writeTarget, settle, hs] at ht

/-- A verdict that leaves an idle instance busy is on a 4-byte write of a command at offset 0. -/
theorem settle_accessVerdict_busy {agent off : Nat} {a : Access} {s : State} (hs : s.inst.busy = false)
    (ht : (settle s (accessVerdict agent a off s)).1.inst.busy = true) :
    off = 0 ∧ ∃ addr w i d n, a = .write 4 addr w ∧ decode w = .ok i
      ∧ (settle s (accessVerdict agent a off s)).1.inst = s.inst.accept i.variant d n := by
  unfold accessVerdict blockAccess at ht ⊢
  split at ht
  · next ho =>
    rw [if_pos ho]
    cases htarget : targetOf s.inst.cfg.maxLen off a.width with
    | error r => simp [htarget, settle, hs] at ht
    | ok t =>
      rw [htarget] at ht
      cases a with
      | read wd addr =>
        obtain ⟨d, hd⟩ := readTarget_state t s
        simp [settle, hd, hs] at ht
      | write wd addr w =>
        obtain ⟨rfl, i, d, n, hw, hy⟩ := settle_writeTarget_busy hs ht
        obtain ⟨rfl, rfl⟩ := targetOf_eq_cmd.1 htarget
        exact ⟨rfl, addr, w, i, d, n, rfl, hw, hy⟩
  · simp [settle, hs] at ht

/-- Only a line's own access can be a write; `wait` and `result` read (R85). -/
theorem op_of_opNow_write {op : HostOp} {wd addr : Nat} {w : Word} (h : opNow op = some (.write wd addr w)) :
    op = .access (.write wd addr w) := by
  cases op with
  | access a => exact congrArg HostOp.access (Option.some.inj h)
  | _ => simp [opNow] at h

/-- An address at offset 0 of a window that covers it is the window's BASE. -/
theorem addr_eq_base_of_covers {c : Config} {addr : Nat} (h : covers c addr = true) (h0 : addr - c.base = 0) : addr = c.base := by
  simp only [covers, Bool.and_eq_true, decide_eq_true_eq] at h
  omega

/-- A bus access that leaves the idle followed instance busy is a write of a command to its CMD. -/
theorem busAccess_busy {agent : Nat} {a : Access} {s : State} (hs : s.inst.busy = false)
    (ht : (s.busAccess agent a).1.inst.busy = true) :
    ∃ w i x d n, a = .write 4 s.inst.cfg.base w ∧ decode w = .ok i
      ∧ (s.busAccess agent a).1.inst = Instance.accept i.variant d n x := by
  obtain ⟨hi | ⟨-, hi⟩, -, -⟩ := atPlace_instances (p := s.landing agent a.addr) (s := s) (localAccess_peers agent a) <;>
    change (s.busAccess agent a).1.inst = _ at hi <;> rw [hi] at ht ⊢
  · simp [hs] at ht
  · obtain ⟨hc, he⟩ | ⟨-, he⟩ := localAccess_cases agent a s <;> rw [he] at ht ⊢
    · obtain ⟨h0, addr, w, i, d, n, rfl, hw, hy⟩ := settle_accessVerdict_busy (s := s.onInst (Instance.claim agent)) hs ht
      obtain rfl : addr = s.inst.cfg.base := addr_eq_base_of_covers hc h0
      exact ⟨w, i, _, d, n, rfl, hw, hy⟩
    · simp [hs] at ht

/-- R36: a step that leaves the idle followed instance busy is that of a line that writes a command to its CMD. -/
theorem step_busy_rises {s t : State} (h : step s = .next t) (hs : s.inst.busy = false) (ht : t.inst.busy = true) :
    ∃ l rest w i x d n, s.program = l :: rest ∧ l.op = .access (.write 4 s.inst.cfg.base w) ∧ decode w = .ok i
      ∧ t.inst = Instance.accept i.variant d n x := by
  obtain ⟨p, -, rfl⟩ | ⟨l, rest, -, hp, rfl⟩ | ⟨-, -, rfl⟩ := step_cases h
  · obtain ⟨hi | ⟨-, hi⟩, -, -⟩ := atPlace_instances (p := p) (s := s.tick) (f := fun u => (decoderStep u, none))
      fun u => by cases hb : u.inst.busy <;> simp [decoderStep, hb]
    · simp [hi, hs] at ht
    · simp [hi, decoderStep_inst_busy] at ht
  · obtain ⟨base, -, hl⟩ | ⟨a, ha, -, hl⟩ := hostLine_cases l (s.beginLine l rest) <;> rw [hl] at ht ⊢
    · obtain ⟨hi | ⟨-, hi⟩, -, -⟩ := atPlace_instances (p := (s.beginLine l rest).place base) (s := s.beginLine l rest)
        (f := fun u => (u.hardReset, none)) fun _ => rfl
      · simp [State.resetAt, hi, hs] at ht
      · simp [State.resetAt, hi] at ht
    · obtain ⟨w, i, x, d, n, rfl, hw, hy⟩ := busAccess_busy (s := s.beginLine l rest) hs ht
      exact ⟨l, rest, w, i, x, d, n, hp, op_of_opNow_write ha, hw, hy⟩
  · simp [hs] at ht

/-- Settles O48: the events at the followed instance say how BUSY falls, and the lines of the program how it rises. -/
theorem busyChangesOnlyBy : Obligations.BusyChangesOnlyBy := by
  unfold Obligations.BusyChangesOnlyBy
  intro s t h
  refine ⟨(step_events h).1.busy_falls, fun hs ht => ?_⟩
  obtain ⟨l, rest, w, i, x, d, n, hp, hl, hw, hy⟩ := step_busy_rises h hs ht
  obtain ⟨-, hvar⟩ := decode_ok hw
  exact ⟨l, rest, w, hp, hl, by simp [hw], by rw [hy]; rfl, by rw [hy]; exact hvar.symm⟩

end Sys2Proof.Machine
end

section
/-! PROOF. What a block offset names, what a read of a location returns, and what a write to one does; with these O25, O26, O27, O30, O31,
O32 and O36 (spec/20_memory.md). -/

namespace Sys2Proof.Machine

/-! ### What a block offset names (R25, R47 to R50) -/

/-- R25: seven registers of four bytes fill the register region. -/
theorem regAt_of_aligned {off : Nat} (hlt : off < 0x1C) (hal : off % 4 = 0) : ∃ r, regAt off = some r ∧ regOffset r = off := by
  obtain ⟨k, rfl⟩ : ∃ k, off = 4 * k := ⟨off / 4, by omega⟩
  have hk : k < 7 := by omega
  interval_cases k
  · exact ⟨.cmd, rfl, rfl⟩
  · exact ⟨.inLen, rfl, rfl⟩
  · exact ⟨.status, rfl, rfl⟩
  · exact ⟨.frame, rfl, rfl⟩
  · exact ⟨.dataLen, rfl, rfl⟩
  · exact ⟨.crc, rfl, rfl⟩
  · exact ⟨.param, rfl, rfl⟩

/-- R48: no register stands at an offset that is no multiple of 4. -/
theorem regAt_of_misaligned {off : Nat} (h : off % 4 ≠ 0) : regAt off = none := by
  unfold regAt
  repeat rw [if_neg (by omega)]

section
variable {m off w : Nat}

theorem targetOf_register_width (hoff : off < 0x1C) (hw : w ≠ 4) : targetOf m off w = .error .accessWidth := by
  rw [targetOf, if_pos hoff, if_pos hw]

theorem targetOf_register {r : Reg} (hoff : off < 0x1C) (hr : regAt off = some r) : targetOf m off 4 = .ok (.reg r) := by
  simp [targetOf, hoff, hr]

theorem targetOf_misaligned (hoff : off < 0x1C) (hr : regAt off = none) : targetOf m off 4 = .error .misaligned := by
  simp [targetOf, hoff, hr]

theorem targetOf_inBuf (hlow : 0x1000 ≤ off) (hhigh : off < 0x1000 + m) :
    targetOf m off w = if w = 1 then .ok (.inBuf (off - 0x1000)) else .error .accessWidth := by
  rw [targetOf, if_neg (by omega), if_pos ⟨hlow, hhigh⟩, ite_not]

theorem targetOf_dataBuf (hpast : 0x1000 + m ≤ off) (hlow : 0x2000 ≤ off) (hhigh : off < 0x2000 + m) :
    targetOf m off w = if w = 1 then .ok (.dataBuf (off - 0x2000)) else .error .accessWidth := by
  rw [targetOf, if_neg (by omega), if_neg (by omega), if_pos ⟨hlow, hhigh⟩, ite_not]

theorem targetOf_unmapped (hreg : 0x1C ≤ off) (hin : off < 0x1000 ∨ 0x1000 + m ≤ off) (hdata : off < 0x2000 ∨ 0x2000 + m ≤ off) :
    targetOf m off w = .error .unmapped := by
  rw [targetOf, if_neg (by omega), if_neg (by omega), if_neg (by omega)]

end

/-- Settles O25, region by region; with MAX_LEN at most 4096 the two windows do not meet. -/
theorem offsetMap : Obligations.OffsetMap := by
  unfold Obligations.OffsetMap
  intro m off w hm
  refine ⟨targetOf_register_width, ?_, ?_, fun h1 h2 => ?_, targetOf_inBuf, fun h1 h2 => ?_, fun h1 h2 => ?_, fun h => ?_⟩
  · rintro hoff rfl hal
    exact targetOf_misaligned hoff (regAt_of_misaligned hal)
  · rintro hoff rfl hal
    obtain ⟨r, hr, hro⟩ := regAt_of_aligned hoff hal
    exact ⟨r, targetOf_register hoff hr, hro⟩
  · exact targetOf_unmapped h1 (.inl h2) (.inl (by omega))
  · exact targetOf_unmapped (by omega) (.inr h1) (.inl h2)
  · exact targetOf_dataBuf (by omega) h1 h2
  · exact targetOf_unmapped (by omega) (.inr (by omega)) (.inr h)

/-! ### Register reads (R39, R51) -/

/-- A register whose fields are all specified reads as its value (R39). -/
theorem readReg_exact {r : Reg} {s : State} (h : s.inst.busy = false ∨ isResultReg r = false) :
    s.readReg r = (s, s.inst.regWord r) := by
  rw [State.readReg, if_neg]
  rcases h with h | h <;> simp [h]

/-- What is read of a register is always laid out as that register's value, with BUSY and VALID as they are: only result fields are
free (R39, R51). -/
theorem readReg_value (r : Reg) (s : State) :
    ∃ x : Instance, (s.readReg r).2 = x.regWord r ∧ x.busy = s.inst.busy ∧ x.valid = s.inst.valid := by
  unfold State.readReg
  split
  · exact ⟨s.inst.unspecify s.draws, rfl, rfl, rfl⟩
  · exact ⟨s.inst, rfl, rfl, rfl⟩

/-- A word below `2 ^ n` has only zeros from bit `n` on. -/
theorem extractLsb'_eq_zero_of_lt {w : Word} {n k : Nat} (h : w.toNat < 2 ^ n) : w.extractLsb' n k = 0 := by
  refine BitVec.eq_of_toNat_eq ?_
  rw [BitVec.extractLsb'_toNat, Nat.shiftRight_eq_div_pow, Nat.div_eq_of_lt h]
  simp

namespace Instance

variable (x : Instance)

theorem regWord_status_busy : (x.regWord .status).getLsbD 0 = x.busy := by
  simp only [regWord, BitVec.getLsbD_append]
  simp

theorem regWord_status_valid : (x.regWord .status).getLsbD 1 = x.valid := by
  simp only [regWord, BitVec.getLsbD_append]
  simp

theorem regWord_status_lt : (x.regWord .status).toNat < 2 ^ 4 := by
  have := x.code.isLt
  have := Bool.toNat_le x.valid
  have := Bool.toNat_le x.busy
  simp only [regWord, toNat_append_eq_add, BitVec.toNat_ofBool, BitVec.ofNat_eq_ofNat, BitVec.toNat_ofNat]
  omega

theorem regWord_frame_lt : (x.regWord .frame).toNat < 2 ^ 16 := by
  simp only [regWord, toNat_append_eq_add, BitVec.ofNat_eq_ofNat, BitVec.toNat_ofNat]
  omega

theorem regWord_dataLen_lt : (x.regWord .dataLen).toNat < 2 ^ 13 := by
  simp only [regWord, toNat_append_eq_add, BitVec.ofNat_eq_ofNat, BitVec.toNat_ofNat]
  omega

theorem regWord_crc_lt : (x.regWord .crc).toNat < 2 ^ 17 := by
  have := Bool.toNat_le x.crcPresent
  simp only [regWord, toNat_append_eq_add, BitVec.toNat_ofBool, BitVec.ofNat_eq_ofNat, BitVec.toNat_ofNat]
  omega

end Instance

/-- Settles O26, from when a register reads exactly and how what is read is laid out. -/
theorem registerRead : Obligations.RegisterRead := by
  unfold Obligations.RegisterRead
  intro r s
  obtain ⟨x, hx, hbusy, hvalid⟩ := readReg_value r s
  refine ⟨readReg_state r s, fun hb => readReg_exact (.inl hb), fun hr => readReg_exact (.inr ?_), ?_⟩
  · rcases hr with rfl | rfl | rfl <;> rfl
  · simp only [readTarget, hx]
    refine ⟨?_, ?_, ?_, ?_⟩ <;> rintro rfl
    · exact ⟨x.regWord_status_busy.trans hbusy, x.regWord_status_valid.trans hvalid,
        extractLsb'_eq_zero_of_lt x.regWord_status_lt⟩
    · exact extractLsb'_eq_zero_of_lt x.regWord_frame_lt
    · exact extractLsb'_eq_zero_of_lt x.regWord_dataLen_lt
    · exact extractLsb'_eq_zero_of_lt x.regWord_crc_lt

/-! ### Buffer reads (R54) -/

section
variable {i : Nat} {b : Byte} {s : State}

theorem readTarget_inBuf_defined (h : s.inst.inBuf.read i = some b) : readTarget (.inBuf i) s = (s, b.setWidth 32) := by
  rw [readTarget, h]
  rfl

theorem readTarget_dataBuf_defined (h : s.inst.dataByte i = some b) : readTarget (.dataBuf i) s = (s, b.setWidth 32) := by
  rw [readTarget, h]
  rfl

theorem dataByte_idle (h : s.inst.busy = false) (i : Nat) : s.inst.dataByte i = s.inst.dataBuf.read i := by
  simp [Instance.dataByte, h]

end

/-- Settles O27: a read draws only where no byte is defined. -/
theorem bufferRead : Obligations.BufferRead := by
  unfold Obligations.BufferRead
  intro i s
  exact ⟨readTarget_state _ s, readTarget_state _ s, fun b h => readTarget_inBuf_defined h,
    fun b hb h => readTarget_dataBuf_defined ((dataByte_idle hb i).trans h)⟩

/-! ### Reads over the bus (R51, R54, R142) -/

theorem readReg_hostedBy (r : Reg) (agent : Nat) (s : State) :
    (s.hostedBy agent).readReg r = ((s.readReg r).1.hostedBy agent, (s.readReg r).2) := by
  have hcond : ((s.hostedBy agent).inst.busy && isResultReg r) = (s.inst.busy && isResultReg r) := rfl
  rw [State.readReg, State.readReg, hcond]
  cases s.inst.busy && isResultReg r <;> cases r <;> rfl

theorem readByte_hostedBy (b : Option Byte) (agent : Nat) (s : State) :
    (s.hostedBy agent).readByte b = ((s.readByte b).1.hostedBy agent, (s.readByte b).2) := by
  cases b <;> rfl

/-- What a location reads as does not depend on the note of the host. -/
theorem readTarget_hostedBy (t : Target) (agent : Nat) (s : State) :
    readTarget t (s.hostedBy agent) = ((readTarget t s).1.hostedBy agent, (readTarget t s).2) := by
  cases t with
  | reg r => exact readReg_hostedBy r agent s
  | inBuf i =>
    have hb : (s.hostedBy agent).inst.inBuf.read i = s.inst.inBuf.read i := rfl
    simp only [readTarget, hb, readByte_hostedBy]
  | dataBuf i =>
    have hb : (s.hostedBy agent).inst.dataByte i = s.inst.dataByte i := rfl
    simp only [readTarget, hb, readByte_hostedBy]

/-- A read by an agent that the instance admits, of a location that exists, is the read of that location, and its value is observed. -/
theorem hostAccess_read {agent wd off : Nat} {t : Target} {s : State} (h : s.inst.admits agent)
    (ht : targetOf s.inst.cfg.maxLen off wd = .ok t) (addr : Nat) :
    hostAccess agent (.read wd addr) off s =
      (((readTarget t s).1.hostedBy agent).onInst (Instance.observe (readTarget t s).2), some (readTarget t s).2) := by
  have hblock : blockAccess (.read wd addr) off (s.hostedBy agent) =
      .done ((readTarget t s).1.hostedBy agent) (some (readTarget t s).2) := by
    have ht' : targetOf (s.hostedBy agent).inst.cfg.maxLen off wd = .ok t := ht
    simp only [blockAccess, Access.width, ht', readTarget_hostedBy]
  rw [hostAccess_of_admits h, hblock]
  rfl

/-- Settles O36: a read over the bus adds to the read of its location the note of the host and the observation. -/
theorem readsHaveNoSideEffect : Obligations.ReadsHaveNoSideEffect := by
  unfold Obligations.ReadsHaveNoSideEffect
  intro agent wd addr off t s hadm ht
  obtain ⟨d, hd⟩ := readTarget_state t s
  rw [hostAccess_read hadm ht, hd]
  rfl

/-! ### Writes (R52, R53, R56) -/

section
variable {i : Nat} {w : Word} {s : State}

theorem writeInBuf_busy (h : s.inst.busy = true) : writeInBuf i w s = .faulted .hostWriteWhileBusy := if_pos h

theorem writeInBuf_accepted (h : s.inst.busy = false) :
    writeInBuf i w s = .done { s with inst := { s.inst with inBuf := s.inst.inBuf.write i (w.extractLsb' 0 8) } } none := by
  rw [writeInBuf, if_neg (by simp [h])]
  rfl

/-- A write to IN_BUF is carried out only while no decode is pending (R53). -/
theorem writeInBuf_done {u : State} {v : Option Word} (h : writeInBuf i w s = .done u v) :
    s.inst.busy = false ∧ u = { s with inst := { s.inst with inBuf := s.inst.inBuf.write i (w.extractLsb' 0 8) } } := by
  cases hb : s.inst.busy with
  | true => rw [writeInBuf_busy hb] at h; cases h
  | false => rw [writeInBuf_accepted hb] at h; cases h; exact ⟨rfl, rfl⟩

/-- A write to IN_LEN is carried out only while no decode is pending, and only with a legal length (R27). -/
theorem writeInLen_done {u : State} {v : Option Word} (h : writeInLen w s = .done u v) :
    s.inst.busy = false ∧ w.extractLsb' 13 19 = 0 ∧ (w.extractLsb' 0 13).toNat ≤ s.inst.cfg.maxLen
      ∧ u = { s with inst := { s.inst with inLen := w.extractLsb' 0 13 } } := by
  cases hb : s.inst.busy with
  | true => rw [writeInLen_busy hb] at h; cases h
  | false =>
    by_cases hw : w.extractLsb' 13 19 ≠ 0 ∨ s.inst.cfg.maxLen < (w.extractLsb' 0 13).toNat
    · rw [writeInLen_refused hb hw] at h; cases h
    · obtain ⟨hres, hlen⟩ := not_or.1 hw
      rw [writeInLen_accepted hb (not_not.1 hres) (Nat.not_lt.1 hlen)] at h
      cases h
      exact ⟨rfl, not_not.1 hres, Nat.not_lt.1 hlen, rfl⟩

end

/-- Settles O30: the fault, and the accepted write at its location and over the bus. -/
theorem inBufWrite : Obligations.InBufWrite := by
  unfold Obligations.InBufWrite
  intro i w s
  refine ⟨writeInBuf_busy, fun hb => ⟨_, writeInBuf_accepted hb, Memory.read_write_same _ _ _,
    fun j hj => Memory.read_write_other _ _ hj, ?_⟩⟩
  intro agent wd addr off hadm ht
  rw [hostAccess_write hadm ht, writeTarget, writeInBuf_accepted (s := s.hostedBy agent) hb]
  rfl

/-- Settles O31: these locations have no other write. -/
theorem readOnlyWriteRefused : Obligations.ReadOnlyWriteRefused := by
  unfold Obligations.ReadOnlyWriteRefused
  intro w s
  exact ⟨rfl, rfl, rfl, rfl, rfl, fun _ => rfl⟩

/-- Writing a byte that is there already changes nothing. -/
@[simp] theorem Memory.write_write_same (m : Memory) (i : Nat) (v : Byte) :
    Memory.write (Memory.write m i v) i v = Memory.write m i v := by
  induction m with
  | nil => simp [Memory.write]
  | cons c m ih =>
    by_cases hlt : i < c.1
    · simp [Memory.write, hlt]
    · by_cases heq : i = c.1
      · simp [Memory.write, heq]
      · simp [Memory.write, hlt, heq, ih]

/-- Settles O32: the first write leaves the state in which the second is accepted and stores what is there (R56). -/
theorem writesAreIdempotent : Obligations.WritesAreIdempotent := by
  unfold Obligations.WritesAreIdempotent
  rintro t w s u (rfl | ⟨i, rfl⟩) h <;> rw [writeTarget] at h ⊢
  · obtain ⟨hb, hres, hlen, rfl⟩ := writeInLen_done h
    exact writeInLen_accepted hb hres hlen
  · obtain ⟨hb, rfl⟩ := writeInBuf_done h
    rw [writeInBuf_accepted]
    · simp
    · exact hb

end Sys2Proof.Machine
end

section
/-! PROOF. What the decoder step and the other events leave unchanged, and how a step runs a line of the host program: O21, O41, O49 and
O50 (spec/20_memory.md). -/

namespace Sys2Proof.Machine

/-! ### The decoder's inputs and its result (R59, R61, R62) -/

/-- Settles O21: Commit writes the result registers and DATA_BUF, and an idle decoder has no step. -/
theorem decoderStepFrame : Obligations.DecoderStepFrame := by
  unfold Obligations.DecoderStepFrame
  intro s
  cases hb : s.inst.busy with
  | true => simp [decoderStep_busy hb]
  | false => simp [decoderStep_idle hb]

/-- R142: while a decode is pending, no access changes its inputs. -/
theorem AccessEffect.sameInputs_of_busy {x y : Instance} (h : AccessEffect x y) (hx : x.busy = true) : y.sameInputs x := by
  cases h with
  | read v => exact ⟨rfl, rfl, rfl, rfl⟩
  | fault line _ => exact ⟨rfl, rfl, rfl, rfl⟩
  | refused r => exact ⟨rfl, rfl, rfl, rfl⟩
  | command v d n hb => simp [hx] at hb
  | inLen n hb _ => simp [hx] at hb
  | inBuf i b hb _ => simp [hx] at hb

/-- While a decode is pending, only a reset changes its inputs (R61). -/
theorem InstEvent.sameInputs_of_busy {x y : Instance} (h : InstEvent x y) (hx : x.busy = true)
    (hy : y.busy = true ∨ y.valid = true) : y.sameInputs x := by
  cases h with
  | idle => exact ⟨rfl, rfl, rfl, rfl⟩
  | passed => exact ⟨rfl, rfl, rfl, rfl⟩
  | decoded d _ => simp [Instance.sameInputs]
  | accessed agent ha => exact ha.sameInputs_of_busy hx
  | reset => simp at hy
  | stray => exact ⟨rfl, rfl, rfl, rfl⟩

/-- Settles O49, from the events at the followed instance. -/
theorem inputsFixedWhileBusy : Obligations.InputsFixedWhileBusy := by
  unfold Obligations.InputsFixedWhileBusy
  intro s t hb h ht
  exact (step_events h).1.sameInputs_of_busy hb ht

/-- The result an instance holds and BUSY are the same in two instances. -/
abbrev Instance.sameOutcome (x y : Instance) : Prop := x.sameResult y ∧ x.busy = y.busy

theorem Instance.sameOutcome_refl (x : Instance) : x.sameOutcome x := ⟨⟨rfl, rfl, rfl, rfl, rfl, rfl, rfl, rfl⟩, rfl⟩

/-- R62: an access that leaves VALID = 1 is no accepted command, and leaves the result and BUSY. -/
theorem AccessEffect.sameOutcome_of_valid {x y : Instance} (h : AccessEffect x y) (hy : y.valid = true) : y.sameOutcome x := by
  cases h with
  | command v d n _ => simp at hy
  | _ => exact x.sameOutcome_refl

/-- R62: with no decode pending, an event that leaves VALID = 1 leaves the result and BUSY. -/
theorem InstEvent.sameOutcome_of_valid {x y : Instance} (h : InstEvent x y) (hx : x.busy = false) (hy : y.valid = true) :
    y.sameOutcome x := by
  cases h with
  | idle => exact x.sameOutcome_refl
  | passed => exact x.sameOutcome_refl
  | decoded d hb => simp [hx] at hb
  | accessed agent ha => exact ha.sameOutcome_of_valid hy
  | reset => simp at hy
  | stray => exact x.sameOutcome_refl

/-- Settles O50, from the events at the followed instance. -/
theorem resultStaysUntilCommand : Obligations.ResultStaysUntilCommand := by
  unfold Obligations.ResultStaysUntilCommand
  intro s t _ hb h ht
  obtain ⟨hresult, hbusy⟩ := (step_events h).1.sameOutcome_of_valid hb ht
  exact ⟨hresult, hbusy.trans hb⟩

/-! ### A step runs a line of the host program (R46, R60, R85) -/

/-- A line with a bus access to do does that access, and what the line has left comes before the lines after it (R85). -/
theorem hostLine_of_opNow {l : HostLine} {a : Access} (h : opNow l.op = some a) (s : State) : hostLine l s =
    { (s.busAccess l.agent a).1 with
      program := (opLater (s.busAccess l.agent a).2 l.op).map (fun o => ⟨l.line, l.agent, o⟩) ++ s.program } := by
  obtain ⟨base, hop, -⟩ | ⟨b, hb, -, hl⟩ := hostLine_cases l s
  · simp [hop, opNow] at h
  · obtain rfl : b = a := Option.some.inj (hb.symm.trans h)
    exact hl

/-- Which instance an agent serves depends on the notes of the hosts alone, so an event that passes does not change it. -/
theorem home_beginLine (agent : Nat) (l : HostLine) (rest : List HostLine) (s : State) :
    (s.beginLine l rest).home agent = s.home agent := by
  simp only [State.home, State.beginLine_inst, Instance.tick_owner, State.beginLine_peers, List.findIdx?_map]
  rfl

/-- Settles O41: where the address lies, and which instance the agent serves, are the same in the state in which the line is begun. -/
theorem stepRunsLine : Obligations.StepRunsLine := by
  unfold Obligations.StepRunsLine
  intro s l rest a hn hp ha u r
  have hplace : u.place a.addr = s.place a.addr := place_beginLine ..
  have hhome : u.home l.agent = s.home l.agent := home_beginLine ..
  refine ⟨?_, fun hf => ?_, fun hw hh => ?_, fun k p hw hh hk => ?_⟩
  · rw [step_of_program_cons hn hp, hostLine_of_opNow ha]
    rfl
  · exact busAccess_focus (hplace.trans hf)
  · refine (busAccess_nowhere (hplace.trans hw)).trans ?_
    rw [hhome, hh]
    rfl
  · refine (busAccess_nowhere (hplace.trans hw)).trans ?_
    rw [hhome, hh]
    simp only [State.atPlace, hk]
    rfl

end Sys2Proof.Machine
end

section
/-! PROOF. The command word, the fields of a frame and the three frame formats: O1, O2, O3, O12 and O13 (spec/30_encoding.md). -/

namespace Sys2Proof.Machine

/-! ### The command word (R68 to R70) -/

/-- Settles O2: a word that decodes to a command has its reserved bits 0 and the command's VARIANT, as the command's own word has. -/
theorem decodeEncodeAgree : Obligations.DecodeEncodeAgree := by
  unfold Obligations.DecodeEncodeAgree
  intro w i
  constructor
  · intro h
    obtain ⟨hres, hvar⟩ := decode_ok h
    calc w = w.extractLsb' 2 30 ++ w.extractLsb' 0 2 := (reserved_append_variant w).symm
      _ = encode i := by rw [hres, hvar]; rfl
  · rintro rfl
    exact decode_encode i

/-- Settles O1, from the words of the commands and the reserved words. -/
theorem commandMap : Obligations.CommandMap :=
  ⟨decode_encode .decodeRtu, decode_encode .decodeTcp, decode_encode .decodeRtuTcp, decode_error (.inl (by decide)),
    fun _ hw => decode_error (.inr hw)⟩

/-! ### Byte fields, 16-bit fields and runs of bytes (R76 to R79) -/

theorem byteAt_of_getElem? {B : List Byte} {i : Nat} {x : Byte} (h : B[i]? = some x) : byteAt B i = x := by
  rw [byteAt, List.getD_eq_getElem?_getD, h]
  rfl

/-- R77: the byte at the lower offset is the more significant one. -/
theorem be16_toNat (B : List Byte) (i : Nat) : (be16 B i).toNat = (byteAt B i).toNat * 256 + (byteAt B (i + 1)).toNat := by
  have := (byteAt B i).isLt
  have := (byteAt B (i + 1)).isLt
  simp only [be16, BitVec.toNat_add, BitVec.toNat_mul, BitVec.toNat_setWidth, BitVec.ofNat_eq_ofNat,
    BitVec.toNat_ofNat]
  omega

/-- R78: the byte at the lower offset is the less significant one. -/
theorem le16_toNat (B : List Byte) (i : Nat) : (le16 B i).toNat = (byteAt B i).toNat + (byteAt B (i + 1)).toNat * 256 := by
  have := (byteAt B i).isLt
  have := (byteAt B (i + 1)).isLt
  simp only [le16, BitVec.toNat_add, BitVec.toNat_mul, BitVec.toNat_setWidth, BitVec.ofNat_eq_ofNat,
    BitVec.toNat_ofNat]
  omega

/-- R79: a run of bytes, byte by byte. -/
theorem getElem?_bytesFromTo (B : List Byte) (a b k : Nat) :
    (bytesFromTo B a b)[k]? = if a + k < b then B[a + k]? else none := by
  rw [bytesFromTo, List.getElem?_take, List.getElem?_drop]
  exact if_congr Nat.lt_sub_iff_add_lt' rfl rfl

/-- Settles O3: each field is stated by the bytes at its offsets. -/
theorem fieldAssembly : Obligations.FieldAssembly := by
  unfold Obligations.FieldAssembly
  intro B i hi
  have hx : B[i]? = some B[i] := List.getElem?_eq_getElem _
  have hy : B[i + 1]? = some B[i + 1] := List.getElem?_eq_getElem hi
  refine ⟨_, _, hx, hy, byteAt_of_getElem? hx, ?_, ?_, getElem?_bytesFromTo B i⟩
  · rw [be16_toNat, byteAt_of_getElem? hx, byteAt_of_getElem? hy]
  · rw [le16_toNat, byteAt_of_getElem? hx, byteAt_of_getElem? hy]

/-! ### A frame with a 6-byte header (R74, R75) -/

section
variable {H : List Byte} (hH : H.length = 6) (cfg : Config) (B : List Byte)
include hH

/-- The bytes after the header stand six offsets higher. -/
theorem byteAt_header_append (i : Nat) : byteAt (H ++ B) (6 + i) = byteAt B i := by
  rw [byteAt, List.getD_append_right _ _ _ _ (by omega), hH, Nat.add_sub_cancel_left]
  rfl

/-- The header's length field is read from the header alone. -/
theorem be16_header_append : be16 (H ++ B) 4 = be16 H 4 := by
  simp only [be16, byteAt, List.getD_append _ _ _ _ (show 4 < H.length by omega),
    List.getD_append _ _ _ _ (show 4 + 1 < H.length by omega)]

theorem bytesFromTo_header_append (i : Nat) : bytesFromTo (H ++ B) (6 + i) (H ++ B).length = B.drop i := by
  rw [bytesFromTo, ← List.drop_drop, List.drop_left' hH]
  exact List.take_of_length_le (by simp [hH]; omega)

/-- R91: the strict check compares the header's length field with the number of bytes after the header. -/
theorem lengthFieldRejected_header_append :
    lengthFieldRejected cfg (H ++ B) = (cfg.strictLength && decide ((be16 H 4).toNat ≠ B.length)) := by
  rw [lengthFieldRejected, be16_header_append hH, List.length_append, hH, Nat.add_sub_cancel_left]

/-- R91: a length field that counts the bytes after the header passes the strict check. -/
theorem lengthFieldRejected_of_counts (h : cfg.strictLength = true → (be16 H 4).toNat = B.length) :
    lengthFieldRejected cfg (H ++ B) = false := by
  rw [lengthFieldRejected_header_append hH]
  cases hs : cfg.strictLength with
  | false => rfl
  | true => simp [h hs]

/-- R105, in terms of the bytes after the header. -/
theorem decodeTcp_header_append : decodeTcp cfg (H ++ B) =
    if B.length < 2 then .err .invalidLength
    else if !fcValid (byteAt B 1) then .err .invalidFunctionCode
    else if lengthFieldRejected cfg (H ++ B) then .err .invalidLength
    else .ok { address := byteAt B 0, functionCode := byteAt B 1, data := B.drop 2, crc := none } := by
  have hlen : (H ++ B).length < 8 ↔ B.length < 2 := by rw [List.length_append]; omega
  simp only [decodeTcp, hlen, byteAt_header_append hH B 0, byteAt_header_append hH B 1, bytesFromTo_header_append hH B 2]

end

/-- R114: without STRICT_LENGTH the RTU-over-TCP decode is the RTU decode of the bytes after the header; a frame too short for the outer
check is too short for the inner one. -/
theorem decodeRtuTcp_of_not_strict {cfg : Config} {frame : List Byte} (hs : cfg.strictLength = false) (hn : 6 ≤ frame.length) :
    decodeRtuTcp cfg frame = decodeRtu cfg (bytesFromTo frame 6 frame.length) := by
  obtain ⟨hlt, hd⟩ | ⟨-, hd⟩ | ⟨-, hrej, -⟩ := decodeRtuTcp_cases cfg frame
  · rw [hd, decodeRtu, if_pos (by rw [bytesFromTo_length]; omega)]
  · exact hd
  · simp [lengthFieldRejected, hs] at hrej

/-- Settles O12: each of the two decodes is a function of the bytes after the header. -/
theorem headerHasNoEffect : Obligations.HeaderHasNoEffect := by
  unfold Obligations.HeaderHasNoEffect
  intro cfg H H' B hs hH hH'
  constructor
  · change decodeTcp cfg (H ++ B) = decodeTcp cfg (H' ++ B)
    simp only [decodeTcp_header_append, lengthFieldRejected_header_append, hH, hH', hs, Bool.false_and]
  · change decodeRtuTcp cfg (H ++ B) = decodeRtuTcp cfg (H' ++ B)
    have inner : ∀ K : List Byte, K.length = 6 → decodeRtuTcp cfg (K ++ B) = decodeRtu cfg B := fun K hK => by
      rw [decodeRtuTcp_of_not_strict hs (by simp [hK]), bytesFromTo_header_append hK B 0, List.drop_zero]
    rw [inner H hH, inner H' hH']

/-! ### Laid-out frames (R73 to R75) -/

/-- The three checks that DECODE.RTU makes are enough for it to succeed (R97 to R103). -/
theorem decodeRtu_accepted {cfg : Config} {frame : List Byte} (hn : 4 ≤ frame.length) (hfc : fcValid (byteAt frame 1) = true)
    (hcrc : cfg.checkCrc = true → crc16 (bytesFromTo frame 0 (frame.length - 2)) = le16 frame (frame.length - 2)) :
    decodeRtu cfg frame = .ok
      { address := byteAt frame 0, functionCode := byteAt frame 1, data := bytesFromTo frame 2 (frame.length - 2),
        crc := some (le16 frame (frame.length - 2)) } := by
  obtain ⟨hlt, -⟩ | ⟨-, hbad, -⟩ | ⟨-, -, hc, hne, -⟩ | ⟨-, -, -, hd⟩ := decodeRtu_cases cfg frame
  · omega
  · simp [hfc] at hbad
  · exact absurd (hcrc hc) hne
  · exact hd

/-- An inner RTU decode that succeeds, and a length field that is not rejected, are enough for DECODE.RTUTCP to succeed (R114). -/
theorem decodeRtuTcp_accepted {cfg : Config} {frame : List Byte} {f : DecodedFrame} (hn : 8 ≤ frame.length)
    (hinner : decodeRtu cfg (bytesFromTo frame 6 frame.length) = .ok f) (hlen : lengthFieldRejected cfg frame = false) :
    decodeRtuTcp cfg frame = .ok f := by
  obtain ⟨hlt, -⟩ | ⟨-, hd⟩ | ⟨-, hrej, -⟩ := decodeRtuTcp_cases cfg frame
  · omega
  · exact hd.trans hinner
  · simp [hlen] at hrej

/-- R78: the two bytes of a CRC at the end of a frame, the less significant one first. -/
def crcBytes (c : Half) : List Byte := [c.extractLsb' 0 8, c.extractLsb' 8 8]

@[simp] theorem crcBytes_length (c : Half) : (crcBytes c).length = 2 := rfl

/-- R78: a CRC laid out at the end of a frame is read back there. -/
theorem le16_append_crc (S : List Byte) (c : Half) : le16 (S ++ crcBytes c) S.length = c := by
  have hlow : byteAt (S ++ crcBytes c) S.length = c.extractLsb' 0 8 := byteAt_of_getElem? (by simp [crcBytes])
  have hhigh : byteAt (S ++ crcBytes c) (S.length + 1) = c.extractLsb' 8 8 := byteAt_of_getElem? (by simp [crcBytes])
  refine BitVec.eq_of_toNat_eq ?_
  rw [le16_toNat, hlow, hhigh, BitVec.extractLsb'_toNat, BitVec.extractLsb'_toNat, Nat.shiftRight_zero, Nat.shiftRight_eq_div_pow]
  omega

section
variable {cfg : Config} {a f : Byte} {data : List Byte} (hfc : fcValid f = true)
include hfc

/-- R73: the RTU format. -/
theorem decodeRtu_laidOut {c : Half} (hcrc : cfg.checkCrc = true → c = crc16 (a :: f :: data)) :
    decodeRtu cfg (a :: f :: data ++ crcBytes c) = .ok ⟨a, f, data, some c⟩ := by
  have hlen : (a :: f :: data ++ crcBytes c).length - 2 = (a :: f :: data).length := by simp
  have hchecked : bytesFromTo (a :: f :: data ++ crcBytes c) 0 (a :: f :: data).length = a :: f :: data := List.take_left
  have hdata : bytesFromTo (a :: f :: data ++ crcBytes c) 2 (a :: f :: data).length = data := List.take_left
  refine Eq.trans (decodeRtu_accepted (by simp) hfc ?_) ?_
  · rw [hlen, hchecked, le16_append_crc]
    exact fun h => (hcrc h).symm
  · rw [hlen, hdata, le16_append_crc]
    rfl

variable {H : List Byte} (hH : H.length = 6)
include hH

/-- R74: the TCP format. -/
theorem decodeTcp_laidOut (hlen : cfg.strictLength = true → (be16 H 4).toNat = data.length + 2) :
    decodeTcp cfg (H ++ a :: f :: data) = .ok ⟨a, f, data, none⟩ := by
  have hfc' : fcValid (byteAt (a :: f :: data) 1) = true := hfc
  rw [decodeTcp_header_append hH, if_neg (by simp), hfc', lengthFieldRejected_of_counts hH _ _ hlen]
  rfl

/-- R75: the RTU-over-TCP format. -/
theorem decodeRtuTcp_laidOut {c : Half} (hcrc : cfg.checkCrc = true → c = crc16 (a :: f :: data))
    (hlen : cfg.strictLength = true → (be16 H 4).toNat = data.length + 4) :
    decodeRtuTcp cfg (H ++ a :: f :: data ++ crcBytes c) = .ok ⟨a, f, data, some c⟩ := by
  rw [List.append_assoc]
  refine decodeRtuTcp_accepted (by simp [hH]; omega) ?_ ?_
  · rw [bytesFromTo_header_append hH _ 0]
    exact decodeRtu_laidOut hfc hcrc
  · exact lengthFieldRejected_of_counts hH _ _ fun hs => by simpa using hlen hs

end

/-- Settles O13, format by format. -/
theorem laidOutFrameDecodes : Obligations.LaidOutFrameDecodes := by
  unfold Obligations.LaidOutFrameDecodes
  intro cfg a f data c H hfc hH
  exact ⟨decodeRtu_laidOut hfc, decodeTcp_laidOut hfc hH, decodeRtuTcp_laidOut hfc hH⟩

end Sys2Proof.Machine
end

section
/-! PROOF. The pseudo-instructions, and that a wait comes to its end: O56 and O57 (spec/30_encoding.md R85). -/

namespace Sys2Proof.Machine

/-! ### The pseudo-instructions (R85) -/

theorem loadOps_length (base i : Nat) (bs : List Byte) : (loadOps base i bs).length = bs.length := by
  induction bs generalizing i with
  | nil => rfl
  | cons b bs ih => rw [loadOps, List.length_cons, List.length_cons, ih]

theorem getElem?_loadOps {base i j : Nat} {bs : List Byte} {b : Byte} (h : bs[j]? = some b) :
    (loadOps base i bs)[j]? = some (sbOp base (0x1000 + (i + j)) b) := by
  induction bs generalizing i j with
  | nil => simp at h
  | cons c bs ih =>
    cases j with
    | zero =>
      obtain rfl : c = b := Option.some.inj h
      rfl
    | succ j =>
      rw [loadOps, List.getElem?_cons_succ, ih h, Nat.add_right_comm, Nat.add_assoc]

theorem unloadOps_length (base i n : Nat) : (unloadOps base i n).length = n := by
  induction n generalizing i with
  | zero => rfl
  | succ n ih => rw [unloadOps, List.length_cons, ih]

theorem getElem?_unloadOps {base i j n : Nat} (h : j < n) :
    (unloadOps base i n)[j]? = some (lbOp base (0x2000 + (i + j))) := by
  induction n generalizing i j with
  | zero => omega
  | succ n ih =>
    cases j with
    | zero => rfl
    | succ j =>
      rw [unloadOps, List.getElem?_cons_succ, ih (by omega), Nat.add_right_comm, Nat.add_assoc]

/-- Settles O57: the two runs of byte accesses are given byte by byte, and the rest is as the expansions are written. -/
theorem pseudoInstructions : Obligations.PseudoInstructions := by
  unfold Obligations.PseudoInstructions
  intro base
  refine ⟨rfl, rfl, rfl, fun bs => ⟨?_, fun i b h => ?_, ?_⟩, rfl, fun _ => rfl, rfl, fun _ => rfl, rfl, fun v => ?_⟩
  · rw [expandLine, List.length_append, loadOps_length]
    rfl
  · have hi : i < bs.length := (List.getElem?_eq_some_iff.1 h).1
    rw [expandLine, List.getElem?_append_left (by rwa [loadOps_length]), getElem?_loadOps h, Nat.zero_add]
    rfl
  · rw [expandLine, List.getElem?_append_right (by rw [loadOps_length]), loadOps_length, Nat.sub_self]
    rfl
  · refine ⟨_, rfl, unloadOps_length .., fun i hi => ?_⟩
    exact (getElem?_unloadOps hi).trans (by rw [Nat.zero_add]; rfl)

/-! ### Which decoder steps next (R60, R145) -/

theorem decoderDue_iff {hostDone : Bool} {x : Instance} :
    decoderDue hostDone x = true ↔ x.busy = true ∧ (hostDone = true ∨ x.delay = 0) := by
  simp [decoderDue]

/-- The followed instance's due step comes first, then another instance's, and otherwise there is none. -/
theorem nextDecoder_cases (s : State) :
    (decoderDue s.program.isEmpty s.inst = true ∧ s.nextDecoder = some .focus)
    ∨ (¬decoderDue s.program.isEmpty s.inst = true ∧ ∃ k p, s.peers[k]? = some p ∧ decoderDue s.program.isEmpty p = true
        ∧ s.nextDecoder = some (.peer k))
    ∨ (¬decoderDue s.program.isEmpty s.inst = true ∧ s.nextDecoder = none) := by
  unfold State.nextDecoder
  split
  · exact .inl ⟨‹_›, rfl⟩
  · next hf =>
    refine .inr ?_
    split
    · next k hk =>
      obtain ⟨hlt, hdue, -⟩ := List.findIdx?_eq_some_iff_getElem.1 hk
      exact .inl ⟨hf, k, _, List.getElem?_eq_getElem hlt, hdue, rfl⟩
    · exact .inr ⟨hf, rfl⟩

/-- The step of the followed instance's decoder (R95). -/
theorem step_decoder_focus {s : State} (h : s.nextDecoder = some .focus) : step s = .next (decoderStep s.tick) :=
  step_of_nextDecoder_some h

/-- The step of another instance's decoder changes that instance, and for every other one an event passes (R95, R135). -/
theorem step_decoder_peer {s : State} {k : Nat} {p : Instance} (h : s.nextDecoder = some (.peer k)) (hk : s.peers[k]? = some p)
    (hb : p.busy = true) : step s = .next { s with
      inst := s.inst.tick
      peers := (s.peers.map Instance.tick).set k (decoderStep { s.tick with inst := p.tick }).inst
      draws := s.draws + p.inLen.toNat } := by
  have hk' : s.tick.peers[k]? = some p.tick := by simp [hk]
  rw [step_of_nextDecoder_some h]
  simp only [State.atPlace, hk', decoderStep_busy (s := { s.tick with inst := p.tick }) hb]
  rfl

/-- Setting a busy instance's place to an idle one leaves one pending decode fewer. -/
theorem countP_busy_set_lt {l : List Instance} {k : Nat} {p y : Instance} (hk : l[k]? = some p) (hp : p.busy = true)
    (hy : y.busy = false) : ((l.map Instance.tick).set k y).countP Instance.busy < l.countP Instance.busy := by
  obtain ⟨hlt, rfl⟩ := List.getElem?_eq_some_iff.1 hk
  have hpos : 0 < l.countP Instance.busy := List.countP_pos_iff.2 ⟨_, List.getElem_mem hlt, hp⟩
  have hmap : (l.map Instance.tick).countP Instance.busy = l.countP Instance.busy := List.countP_map
  rw [List.countP_set (by simpa using hlt), hmap, if_pos (by simpa using hp), if_neg (by simp [hy])]
  omega

/-! ### A wait at the followed instance (R85) -/

/-- R9, R46: STATUS of an instance with legal parameters lies in its window. -/
theorem covers_status {c : Config} (h : c.wellFormed = true) : covers c (c.base + regOffset .status) = true := by
  simp only [Config.wellFormed, Bool.and_eq_true, decide_eq_true_eq] at h
  obtain ⟨⟨⟨-, haligned⟩, hbase⟩, hwidth⟩ := h
  obtain ⟨m, hm⟩ : (0x4000 : Nat) ∣ 2 ^ c.hostAddrW := pow_dvd_pow 2 hwidth
  have hoff : regOffset .status = 8 := rfl
  simp only [covers, Bool.and_eq_true, decide_eq_true_eq, hoff]
  omega

/-- A read of STATUS by a host agent of the instance shows VALID in bit 1, and changes only the observation and the note of the host. -/
theorem hostAccess_status {agent : Nat} {s : State} (h : s.inst.admits agent) (addr : Nat) : ∃ d v,
    hostAccess agent (.read 4 addr) (regOffset .status) s =
      ({ s with inst := { s.inst with reads := s.inst.reads ++ [v], owner := some agent }, draws := d }, some v)
    ∧ v.getLsbD 1 = s.inst.valid := by
  obtain ⟨x, hx, -, hvalid⟩ := readReg_value .status s
  refine ⟨_, _, readsHaveNoSideEffect agent 4 addr (regOffset .status) (.reg .status) s h rfl, ?_⟩
  rw [readTarget, hx, x.regWord_status_valid, hvalid]

/-- The first of `k + 1` steps, and then the others. -/
theorem run_succ {M : Host.Core} {s u : M.State} (h : M.step s = .next u) (k : Nat) : M.run (k + 1) s = M.run k u := by
  simp only [Host.Core.run, h]

/-- Next in the host program comes a wait at the followed instance, by an agent that it admits. -/
structure State.Waits (n agent : Nat) (rest : List HostLine) (s : State) : Prop where
  legal   : s.inst.cfg.wellFormed = true
  admits  : s.inst.admits agent
  program : s.program = ⟨n, agent, .wait s.inst.cfg.base⟩ :: rest

/-- Some number of steps leads to a state in which `rest` is left to do, VALID is 1 and BUSY is 0. -/
def State.WaitEnds (rest : List HostLine) (s : State) : Prop :=
  ∃ k t, Sys2Proof.core.run k s = .next t ∧ t.program = rest ∧ t.inst.valid = true ∧ t.inst.busy = false

theorem State.WaitEnds.of_step {rest : List HostLine} {s u : State} (h : step s = .next u) (hu : u.WaitEnds rest) :
    s.WaitEnds rest := by
  obtain ⟨k, t, hrun, ht⟩ := hu
  exact ⟨k + 1, t, (run_succ (M := Sys2Proof.core) h k).trans hrun, ht⟩

namespace State.Waits

variable {n agent : Nat} {rest : List HostLine} {s : State} (h : s.Waits n agent rest)
include h

/-- A wait still stands when the program, the configuration and the host do not change. -/
theorem of_unchanged {t : State} (hprogram : t.program = s.program) (hcfg : t.inst.cfg = s.inst.cfg)
    (hadm : t.inst.admits agent) : t.Waits n agent rest where
  legal := hcfg ▸ h.legal
  admits := hadm
  program := by rw [hprogram, hcfg, h.program]

/-- R85: the wait reads STATUS, and it is done when VALID is 1. -/
theorem step_read (hn : s.nextDecoder = none) : ∃ t v, step s = .next t
    ∧ t.program = (if s.inst.valid then rest else s.program)
    ∧ t.inst = { s.inst.tick with reads := s.inst.reads ++ [v], owner := some agent } := by
  obtain ⟨d, v, hread, hbit⟩ := hostAccess_status (s := s.beginLine ⟨n, agent, .wait s.inst.cfg.base⟩ rest) h.admits
    (s.inst.cfg.base + regOffset .status)
  have hbus := busAccess_focus (agent := agent) (a := .read 4 (s.inst.cfg.base + regOffset .status))
    (s := s.beginLine ⟨n, agent, .wait s.inst.cfg.base⟩ rest) (place_focus.2 (covers_status h.legal))
  simp only [Access.addr, State.beginLine_inst, Instance.tick_cfg, Nat.add_sub_cancel_left, hread] at hbus
  refine ⟨_, v, (step_of_program_cons hn h.program).trans (congrArg _ (hostLine_of_opNow rfl _)), ?_, ?_⟩
  · simp only [hbus, opLater, Option.getD_some, hbit]
    cases hv : s.inst.valid with
    | true => simp [hv]
    | false => simp [hv, h.program]
  · simp only [hbus]
    rfl

/-- R145: when no decode is pending at the followed instance, only due steps of the others come before the read that ends the wait. -/
theorem ends_of_idle (hb : s.inst.busy = false) (hv : s.inst.valid = true) : s.WaitEnds rest := by
  induction hm : s.peers.countP Instance.busy using Nat.strong_induction_on generalizing s with
  | _ m ih =>
    obtain ⟨hdue, -⟩ | ⟨-, k, p, hk, hdue, hn⟩ | ⟨-, hn⟩ := nextDecoder_cases s
    · simp [decoderDue, hb] at hdue
    · obtain ⟨hp, -⟩ := decoderDue_iff.1 hdue
      refine .of_step (step_decoder_peer hn hk hp) (ih _ ?_ (h.of_unchanged rfl rfl h.admits) hb hv rfl)
      exact hm ▸ countP_busy_set_lt hk hp (decoderStep_inst_busy _)
    · obtain ⟨t, v, hstep, hprogram, hinst⟩ := h.step_read hn
      rw [hv, if_pos rfl] at hprogram
      exact .of_step hstep ⟨0, t, rfl, hprogram, by rw [hinst]; exact hv, by rw [hinst]; exact hb⟩

/-- R145: while the decode is pending, each step brings its decoder step nearer, and that one leaves VALID 1. -/
theorem ends_of_busy (hb : s.inst.busy = true) (hv : s.inst.valid = false) : s.WaitEnds rest := by
  induction hm : s.inst.delay using Nat.strong_induction_on generalizing s with
  | _ m ih =>
    have nearer : ¬decoderDue s.program.isEmpty s.inst = true → s.inst.delay - 1 < m := fun hnot =>
      hm ▸ Nat.sub_one_lt fun h0 => hnot (decoderDue_iff.2 ⟨hb, .inr h0⟩)
    obtain ⟨-, hn⟩ | ⟨hnot, k, p, hk, hdue, hn⟩ | ⟨hnot, hn⟩ := nextDecoder_cases s
    · refine .of_step (step_decoder_focus hn) ?_
      rw [decoderStep_busy (s := s.tick) hb]
      refine ends_of_idle (h.of_unchanged rfl ?_ ?_) (Instance.commit_busy _ _) (Instance.commit_valid _ _)
      · exact Instance.commit_cfg _ _
      · simpa [Instance.admits] using h.admits
    · obtain ⟨hp, -⟩ := decoderDue_iff.1 hdue
      exact .of_step (step_decoder_peer hn hk hp) (ih _ (nearer hnot) (h.of_unchanged rfl rfl h.admits) hb hv rfl)
    · obtain ⟨t, v, hstep, hprogram, hinst⟩ := h.step_read hn
      rw [hv, if_neg (by simp)] at hprogram
      have hwaits : t.Waits n agent rest := h.of_unchanged hprogram (by rw [hinst]; rfl) (by rw [hinst]; exact .inr rfl)
      exact .of_step hstep (ih _ (nearer hnot) hwaits (by rw [hinst]; exact hb) (by rw [hinst]; exact hv) (by rw [hinst]; rfl))

end State.Waits

/-- Settles O56, from the wait's end from a pending decode; the invariant gives VALID 0 and legal parameters. -/
theorem waitEnds : Obligations.WaitEnds := by
  unfold Obligations.WaitEnds
  intro s n agent rest hinv hb hadm hprogram
  exact State.Waits.ends_of_busy ⟨hinv.legalCfg, hadm, hprogram⟩ hb (hinv.notBoth hb)

end Sys2Proof.Machine
end

section
/-! PROOF. What the three decodes have in common: the function code, the CRC, the order of the checks, the payload and the decoder step;
with these O4, O5, O6, O10, O14, O22 and O40 (spec/40_common.md). -/

namespace Sys2Proof.Machine

/-! ### The CRC (R89) -/

/-- Settles O5, by running the rounds on each byte. -/
theorem crcCheckValues : Obligations.CrcCheckValues := by
  unfold Obligations.CrcCheckValues
  simp [crc16, crcByte, crcRounds, crcRound]

/-- While only zeros are shifted out, the rounds are a shift. -/
theorem crcRounds_of_low_zero {k : Nat} {c : Half} (h : ∀ i < k, c.getLsbD i = false) : crcRounds k c = c >>> k := by
  induction k generalizing c with
  | zero => rfl
  | succ k ih =>
    have hround : crcRound c = c >>> 1 := if_neg (by rw [h 0 (Nat.succ_pos k)]; exact Bool.false_ne_true)
    have hlow : ∀ i < k, (c >>> 1).getLsbD i = false := fun i hi => by
      rw [BitVec.getLsbD_ushiftRight]
      exact h (1 + i) (by omega)
    calc crcRounds k (crcRound c) = c >>> 1 >>> k := by rw [hround, ih hlow]
      _ = c >>> (k + 1) := by rw [← BitVec.shiftRight_add, Nat.add_comm]

/-- The register's low byte, when it is the next byte of the sequence, cancels itself: the high byte moves down. -/
theorem crcByte_low (c : Half) : crcByte c (c.extractLsb' 0 8) = c >>> 8 := by
  have hlow : ∀ i < 8, (c ^^^ (c.extractLsb' 0 8).setWidth 16).getLsbD i = false := fun i hi => by
    simpa [hi] using fun _ => (by omega : i < 16)
  have hshift : (c ^^^ (c.extractLsb' 0 8).setWidth 16) >>> 8 = c >>> 8 := by
    ext i hi
    simp
  rw [crcByte, crcRounds_of_low_zero hlow, hshift]

/-- The high byte, when it comes next, cancels what is left. -/
theorem crcByte_high (c : Half) : crcByte (c >>> 8) (c.extractLsb' 8 8) = 0 := by
  have hxor : c >>> 8 ^^^ (c.extractLsb' 8 8).setWidth 16 = 0 := by
    ext i hi
    have hbit : c.getLsbD (8 + i) = true → i < 8 := fun h => by
      have := BitVec.lt_of_getLsbD h
      omega
    simpa using hbit
  rw [crcByte, hxor]
  rfl

/-- Settles O6: the CRC's two bytes cancel the register, the low one first. -/
theorem crcOfCheckedSequence : Obligations.CrcOfCheckedSequence := by
  unfold Obligations.CrcOfCheckedSequence
  intro S
  calc crc16 (S ++ [(crc16 S).extractLsb' 0 8, (crc16 S).extractLsb' 8 8])
      = crcByte (crcByte (crc16 S) ((crc16 S).extractLsb' 0 8)) ((crc16 S).extractLsb' 8 8) := List.foldl_append
    _ = 0 := by rw [crcByte_low, crcByte_high]

/-! ### The bytes of a frame from an offset on (R13, R79) -/

section
variable (B : List Byte) (k : Nat)

theorem bytesFromTo_to_end : bytesFromTo B k B.length = B.drop k := List.take_of_length_le (List.length_drop ..).le

theorem byteAt_drop (i : Nat) : byteAt (B.drop k) i = byteAt B (k + i) := by
  simp [byteAt, List.getD_eq_getElem?_getD]

theorem le16_drop (i : Nat) : le16 (B.drop k) i = le16 B (k + i) := by
  simp only [le16, byteAt_drop, Nat.add_assoc]

theorem bytesFromTo_drop (a b : Nat) : bytesFromTo (B.drop k) a b = bytesFromTo B (k + a) (k + b) := by
  rw [bytesFromTo, bytesFromTo, List.drop_drop, Nat.add_sub_add_left]

end

/-! ### DECODE.RTUTCP in terms of the whole frame (R114, R117 to R119) -/

section
variable {cfg : Config} {B : List Byte} (hn : 8 ≤ B.length)
include hn

/-- An error of the inner RTU decode is the one reported. -/
theorem decodeRtuTcp_of_inner_err {k : ErrorKind} (h : decodeRtu cfg (B.drop 6) = .err k) : decodeRtuTcp cfg B = .err k := by
  rw [decodeRtuTcp, if_neg (Nat.not_lt.2 hn), bytesFromTo_to_end, h]

/-- The length field is checked once the inner RTU decode has succeeded. -/
theorem decodeRtuTcp_of_inner_ok {f : DecodedFrame} (h : decodeRtu cfg (B.drop 6) = .ok f) :
    decodeRtuTcp cfg B = if lengthFieldRejected cfg B then .err .invalidLength else .ok f := by
  rw [decodeRtuTcp, if_neg (Nat.not_lt.2 hn), bytesFromTo_to_end, h]

end

/-- All that DECODE.RTUTCP can answer, in the order of its checks: the outer and the inner length check together ask for ten bytes. -/
theorem decodeRtuTcp_frame_cases (cfg : Config) (B : List Byte) :
    (B.length < 10 ∧ decodeRtuTcp cfg B = .err .invalidLength)
    ∨ (10 ≤ B.length ∧ fcValid (byteAt B 7) = false ∧ decodeRtuTcp cfg B = .err .invalidFunctionCode)
    ∨ (10 ≤ B.length ∧ fcValid (byteAt B 7) = true ∧ cfg.checkCrc = true
        ∧ crc16 (bytesFromTo B 6 (B.length - 2)) ≠ le16 B (B.length - 2) ∧ decodeRtuTcp cfg B = .err .invalidCrc)
    ∨ (10 ≤ B.length ∧ fcValid (byteAt B 7) = true
        ∧ (cfg.checkCrc = true → crc16 (bytesFromTo B 6 (B.length - 2)) = le16 B (B.length - 2))
        ∧ decodeRtuTcp cfg B = if lengthFieldRejected cfg B then .err .invalidLength else .ok
          { address := byteAt B 6, functionCode := byteAt B 7, data := bytesFromTo B 8 (B.length - 2),
            crc := some (le16 B (B.length - 2)) }) := by
  rcases Nat.lt_or_ge B.length 8 with hlt | hn
  · exact .inl ⟨by omega, if_pos hlt⟩
  · have htrailer : 6 + (B.length - 6 - 2) = B.length - 2 := by omega
    have hten : 4 ≤ B.length - 6 ↔ 10 ≤ B.length := by omega
    have inner := decodeRtu_cases cfg (B.drop 6)
    simp only [List.length_drop, byteAt_drop, le16_drop, bytesFromTo_drop, htrailer, hten] at inner
    obtain ⟨hlen, hd⟩ | ⟨hlen, hfc, hd⟩ | ⟨hlen, hfc, hc, hne, hd⟩ | ⟨hlen, hfc, hcrc, hd⟩ := inner
    · exact .inl ⟨by omega, decodeRtuTcp_of_inner_err hn hd⟩
    · exact .inr (.inl ⟨hlen, hfc, decodeRtuTcp_of_inner_err hn hd⟩)
    · exact .inr (.inr (.inl ⟨hlen, hfc, hc, hne, decodeRtuTcp_of_inner_err hn hd⟩))
    · exact .inr (.inr (.inr ⟨hlen, hfc, hcrc, decodeRtuTcp_of_inner_ok hn hd⟩))

/-! ### The first check that fails decides the error (R88, R92) -/

/-- R91 -/
theorem lengthFieldRejected_iff {cfg : Config} {B : List Byte} :
    lengthFieldRejected cfg B = true ↔ cfg.strictLength = true ∧ (be16 B 4).toNat ≠ B.length - 6 := by
  simp [lengthFieldRejected]

section
variable (cfg : Config) (B : List Byte)

/-- R97: when DECODE.RTU reports which error. -/
theorem decodeRtu_errors :
    (decodeRtu cfg B = .err .invalidLength ↔ B.length < 4)
    ∧ (decodeRtu cfg B = .err .invalidFunctionCode ↔ 4 ≤ B.length ∧ fcValid (byteAt B 1) = false)
    ∧ (decodeRtu cfg B = .err .invalidCrc ↔ 4 ≤ B.length ∧ fcValid (byteAt B 1) = true ∧ cfg.checkCrc = true
        ∧ crc16 (B.take (B.length - 2)) ≠ le16 B (B.length - 2)) := by
  have hchecked : B.take (B.length - 2) = bytesFromTo B 0 (B.length - 2) := rfl
  rw [hchecked]
  obtain ⟨hn, hd⟩ | ⟨hn, hfc, hd⟩ | ⟨hn, hfc, hc, hne, hd⟩ | ⟨hn, hfc, hcrc, hd⟩ := decodeRtu_cases cfg B
  · simp [hd, hn]
  · simp [hd, hn, hfc]
  · simp [hd, hn, hfc, hc, hne]
  · simpa [hd, hn, hfc] using hcrc

/-- R105: when DECODE.TCP reports which error. -/
theorem decodeTcp_errors :
    (decodeTcp cfg B = .err .invalidLength ↔ B.length < 8 ∨ fcValid (byteAt B 7) = true ∧ cfg.strictLength = true
        ∧ (be16 B 4).toNat ≠ B.length - 6)
    ∧ (decodeTcp cfg B = .err .invalidFunctionCode ↔ 8 ≤ B.length ∧ fcValid (byteAt B 7) = false)
    ∧ decodeTcp cfg B ≠ .err .invalidCrc := by
  rw [← lengthFieldRejected_iff]
  obtain ⟨hn, hd⟩ | ⟨hn, hfc, hd⟩ | ⟨hn, hfc, hlen, hd⟩ | ⟨hn, hfc, hlen, hd⟩ := decodeTcp_cases cfg B
  · simp [hd, hn]
  · simp [hd, hn, hfc]
  · simp [hd, hn, hfc, hlen]
  · simp [hd, hn, hfc, hlen]

/-- R114, R119: when DECODE.RTUTCP reports which error. -/
theorem decodeRtuTcp_errors :
    (decodeRtuTcp cfg B = .err .invalidLength ↔ B.length < 10 ∨ fcValid (byteAt B 7) = true
        ∧ (cfg.checkCrc = true → crc16 ((B.drop 6).take (B.length - 8)) = le16 B (B.length - 2))
        ∧ cfg.strictLength = true ∧ (be16 B 4).toNat ≠ B.length - 6)
    ∧ (decodeRtuTcp cfg B = .err .invalidFunctionCode ↔ 10 ≤ B.length ∧ fcValid (byteAt B 7) = false)
    ∧ (decodeRtuTcp cfg B = .err .invalidCrc ↔ 10 ≤ B.length ∧ fcValid (byteAt B 7) = true ∧ cfg.checkCrc = true
        ∧ crc16 ((B.drop 6).take (B.length - 8)) ≠ le16 B (B.length - 2)) := by
  have hchecked : (B.drop 6).take (B.length - 8) = bytesFromTo B 6 (B.length - 2) := by rw [bytesFromTo, Nat.sub_sub]
  rw [← lengthFieldRejected_iff, hchecked]
  obtain ⟨hn, hd⟩ | ⟨hn, hfc, hd⟩ | ⟨hn, hfc, hc, hne, hd⟩ | ⟨hn, hfc, hcrc, hd⟩ := decodeRtuTcp_frame_cases cfg B
  · simp [hd, hn]
  · simp [hd, hn, hfc]
  · simp [hd, hn, hfc, hc, hne]
  · cases hlen : lengthFieldRejected cfg B with
    | true => simpa [hd, hn, Nat.not_lt.2 hn, hfc, hlen] using hcrc
    | false => simpa [hd, hn, hfc, hlen] using hcrc

end

/-- Settles O10, variant by variant. -/
theorem errorPriority : Obligations.ErrorPriority := by
  unfold Obligations.ErrorPriority
  intro cfg B
  obtain ⟨hrtuLen, hrtuFc, hrtuCrc⟩ := decodeRtu_errors cfg B
  obtain ⟨htcpLen, htcpFc, htcpCrc⟩ := decodeTcp_errors cfg B
  exact ⟨hrtuLen, hrtuFc, hrtuCrc, htcpLen, htcpFc, htcpCrc, decodeRtuTcp_errors cfg B⟩

/-- R88: "Put another way, x != 0 and x[7] = 0." -/
theorem fcValid_iff_bit {x : Byte} : fcValid x = true ↔ x ≠ 0 ∧ x.getLsbD 7 = false := by
  have hbit : x.getLsbD 7 = decide (128 ≤ x.toNat) := BitVec.msb_eq_decide x
  have hzero : x ≠ 0 ↔ x.toNat ≠ 0 := BitVec.toNat_ne_iff_ne.symm
  rw [fcValid_iff, hbit, hzero, decide_eq_false_iff_not]
  omega

/-- Settles O4: both forms of the rule, and from the order of the checks that each decode reports the error. -/
theorem functionCodeRange : Obligations.FunctionCodeRange := by
  unfold Obligations.FunctionCodeRange
  refine ⟨fun x => ⟨fcValid_iff, fcValid_iff_bit⟩, fun cfg B => ?_⟩
  obtain ⟨-, hrtu, -⟩ := decodeRtu_errors cfg B
  obtain ⟨-, htcp, -⟩ := decodeTcp_errors cfg B
  obtain ⟨-, hrtuTcp, -⟩ := decodeRtuTcp_errors cfg B
  exact ⟨fun hn hfc => hrtu.2 ⟨hn, hfc⟩, fun hn hfc => htcp.2 ⟨hn, hfc⟩, fun hn hfc => hrtuTcp.2 ⟨hn, hfc⟩⟩

/-! ### The payload and the decoder step (R94 to R96) -/

/-- Settles O14: the payload is at least four bytes shorter than the frame. -/
theorem payloadFits : Obligations.PayloadFits := by
  unfold Obligations.PayloadFits
  intro cfg v B f h
  have := decodeFrame_ok_length h
  omega

/-- Settles O22: the decoder step commits the result of the frame that IN_LEN and IN_BUF give, and its payload's length fits DATA_LEN. -/
theorem decoderStepStores : Obligations.DecoderStepStores := by
  unfold Obligations.DecoderStepStores
  refine fun s => ⟨fun hb => ⟨s.frame, inBytes_seesFrame .., ?_⟩, decoderStep_idle⟩
  rw [decoderStep_busy hb]
  exact s.inst.commit_decodeFrame_shows s.frame_length

/-- Settles O40: a due step of the followed instance comes first, and with no decode pending none is due. -/
theorem stepRunsDecoder : Obligations.StepRunsDecoder := by
  unfold Obligations.StepRunsDecoder
  refine fun s => ⟨fun hb hdue => step_decoder_focus ?_, fun hb hpeers hp => step_of_program_nil ?_ hp⟩
  · exact if_pos (decoderDue_iff.2 ⟨hb, hdue.imp_left List.isEmpty_iff.2⟩)
  · obtain ⟨hdue, -⟩ | ⟨-, k, p, hk, hdue, -⟩ | ⟨-, hn⟩ := nextDecoder_cases s
    · simp [decoderDue, hb] at hdue
    · simp [decoderDue, hpeers p (List.mem_of_getElem? hk)] at hdue
    · exact hn

end Sys2Proof.Machine
end

section
/-! PROOF. DECODE.RTU: the result of the core function and of the command; with these O7 and O18 (spec/41_decode_rtu.md). -/

namespace Sys2Proof.Machine

/-- Settles O7: each error from when it is reported, success from the three checks. -/
theorem rtuResult : Obligations.RtuResult := by
  unfold Obligations.RtuResult
  intro cfg B
  obtain ⟨hlen, hfc, hcrc⟩ := decodeRtu_errors cfg B
  refine ⟨hlen.2, fun hn hbad => hfc.2 ⟨hn, hbad⟩, fun hn hgood hc hne => hcrc.2 ⟨hn, hgood, hc, hne⟩, fun hn hgood heq => ?_⟩
  refine ⟨bytesFromTo B 2 (B.length - 2), ?_, fun k hk => ?_, decodeRtu_accepted hn hgood heq⟩
  · rw [bytesFromTo_length]
    omega
  · rw [getElem?_bytesFromTo, if_pos (by omega)]

/-- R97: DECODE.RTU's checks, in numbers and in their order. -/
theorem decodeRtu_eq_checks (cfg : Config) (B : List Byte) :
    decodeRtu cfg B =
      if B.length < 4 then .err .invalidLength
      else if ¬(1 ≤ (byteAt B 1).toNat ∧ (byteAt B 1).toNat ≤ 127) then .err .invalidFunctionCode
      else if cfg.checkCrc = true ∧ crc16 (bytesFromTo B 0 (B.length - 2)) ≠ le16 B (B.length - 2) then .err .invalidCrc
      else .ok ⟨byteAt B 0, byteAt B 1, bytesFromTo B 2 (B.length - 2), some (le16 B (B.length - 2))⟩ := by
  simp only [← fcValid_iff]
  obtain ⟨hn, hd⟩ | ⟨hn, hfc, hd⟩ | ⟨hn, hfc, hc, hne, hd⟩ | ⟨hn, hfc, hcrc, hd⟩ := decodeRtu_cases cfg B
  · rw [hd, if_pos hn]
  · rw [hd, if_neg (Nat.not_lt.2 hn), if_pos (by simp [hfc])]
  · rw [hd, if_neg (Nat.not_lt.2 hn), if_neg (not_not.2 hfc), if_pos ⟨hc, hne⟩]
  · rw [hd, if_neg (Nat.not_lt.2 hn), if_neg (not_not.2 hfc), if_neg fun ⟨hc, hne⟩ => hne (hcrc hc)]

/-- R95, R97: an accepted command and its decoder step leave in the result registers the decode, by the command's variant, of a frame
that IN_LEN and IN_BUF give. -/
theorem exec_decoderStep_shows (i : Instr) {s : State} (h : s.inst.busy = false) :
    ∃ t B, exec i s = .next t ∧ s.inst.seesFrame B ∧ (decoderStep t).inst.shows (decodeFrame s.inst.cfg i.variant B) := by
  refine ⟨_, _, exec_eq i s, inBytes_seesFrame s.inst (s.draws + 1), ?_⟩
  rw [decoderStep_startCommand h]
  exact Instance.commit_decodeFrame_shows _ (inBytes_length ..)

/-- Settles O18: the registers show the decode of the frame, and for DECODE.RTU that is its checks in their order. -/
theorem rtuCommandResult : Obligations.RtuCommandResult := by
  unfold Obligations.RtuCommandResult
  intro s hs
  obtain ⟨t, B, hexec, hsees, hshows⟩ := exec_decoderStep_shows .decodeRtu hs
  refine ⟨t, B, hexec, hsees, ?_⟩
  rw [← decodeRtu_eq_checks]
  exact hshows

end Sys2Proof.Machine
end

section
/-! PROOF. DECODE.TCP: the result of the core function and of the command; with these O8 and O19 (spec/42_decode_tcp.md). -/

namespace Sys2Proof.Machine

/-- R105, R112: DECODE.TCP's checks, in numbers and in their order; the strict length check is the last. -/
theorem decodeTcp_eq_checks (cfg : Config) (B : List Byte) :
    decodeTcp cfg B =
      if B.length < 8 then .err .invalidLength
      else if ¬(1 ≤ (byteAt B 7).toNat ∧ (byteAt B 7).toNat ≤ 127) then .err .invalidFunctionCode
      else if cfg.strictLength = true ∧ (be16 B 4).toNat ≠ B.length - 6 then .err .invalidLength
      else .ok ⟨byteAt B 6, byteAt B 7, bytesFromTo B 8 B.length, none⟩ := by
  simp only [decodeTcp, ← fcValid_iff, ← lengthFieldRejected_iff, Bool.not_eq_true', Bool.not_eq_true]

/-- R108 to R111: the frame that DECODE.TCP's three checks accept decodes to its unit identifier, its function code and every byte after
these, with no CRC. -/
theorem decodeTcp_accepted {cfg : Config} {B : List Byte} (hn : 8 ≤ B.length) (hfc : fcValid (byteAt B 7) = true)
    (hlen : cfg.strictLength = true → (be16 B 4).toNat = B.length - 6) :
    decodeTcp cfg B = .ok ⟨byteAt B 6, byteAt B 7, B.drop 8, none⟩ := by
  rw [decodeTcp_eq_checks, if_neg (Nat.not_lt.2 hn), if_neg (not_not.2 (fcValid_iff.1 hfc)),
    if_neg fun ⟨hs, hne⟩ => hne (hlen hs), bytesFromTo_to_end]

/-- Settles O8: each error from when it is reported, success from the three checks. -/
theorem tcpResult : Obligations.TcpResult := by
  unfold Obligations.TcpResult
  intro cfg B
  obtain ⟨hlen, hfc, -⟩ := decodeTcp_errors cfg B
  exact ⟨fun hn => hlen.2 (.inl hn), fun hn hbad => hfc.2 ⟨hn, hbad⟩, fun _ hgood hs hne => hlen.2 (.inr ⟨hgood, hs, hne⟩),
    decodeTcp_accepted⟩

/-- Settles O19: the registers show the decode of the frame, and for DECODE.TCP that is its checks in their order. -/
theorem tcpCommandResult : Obligations.TcpCommandResult := by
  unfold Obligations.TcpCommandResult
  intro s hs
  obtain ⟨t, B, hexec, hsees, hshows⟩ := exec_decoderStep_shows .decodeTcp hs
  refine ⟨t, B, hexec, hsees, ?_⟩
  rw [← decodeTcp_eq_checks]
  exact hshows

end Sys2Proof.Machine
end

section
/-! PROOF. DECODE.RTUTCP: the result of the core function and of the command; with these O9, O11 and O20
(spec/43_decode_rtu_over_tcp.md). -/

namespace Sys2Proof.Machine

/-- R117 to R119: DECODE.RTUTCP's checks at the whole frame's offsets, in numbers and in their order; the strict length check is the
last. -/
theorem decodeRtuTcp_eq_checks (cfg : Config) (B : List Byte) :
    decodeRtuTcp cfg B =
      if B.length < 10 then .err .invalidLength
      else if ¬(1 ≤ (byteAt B 7).toNat ∧ (byteAt B 7).toNat ≤ 127) then .err .invalidFunctionCode
      else if cfg.checkCrc = true ∧ crc16 (bytesFromTo B 6 (B.length - 2)) ≠ le16 B (B.length - 2) then .err .invalidCrc
      else if cfg.strictLength = true ∧ (be16 B 4).toNat ≠ B.length - 6 then .err .invalidLength
      else .ok ⟨byteAt B 6, byteAt B 7, bytesFromTo B 8 (B.length - 2), some (le16 B (B.length - 2))⟩ := by
  simp only [← fcValid_iff, ← lengthFieldRejected_iff]
  obtain ⟨hn, hd⟩ | ⟨hn, hfc, hd⟩ | ⟨hn, hfc, hc, hne, hd⟩ | ⟨hn, hfc, hcrc, hd⟩ := decodeRtuTcp_frame_cases cfg B
  · rw [hd, if_pos hn]
  · rw [hd, if_neg (Nat.not_lt.2 hn), if_pos (by simp [hfc])]
  · rw [hd, if_neg (Nat.not_lt.2 hn), if_neg (not_not.2 hfc), if_pos ⟨hc, hne⟩]
  · rw [if_neg (Nat.not_lt.2 hn), if_neg (not_not.2 hfc), if_neg fun ⟨hc, hne⟩ => hne (hcrc hc), hd]

/-- R118: the bytes that the inner CRC covers, those between the header and the trailer. -/
theorem bytesFromTo_header_trailer (B : List Byte) : bytesFromTo B 6 (B.length - 2) = (B.drop 6).take (B.length - 8) := by
  rw [bytesFromTo, Nat.sub_sub]

/-- R117, R118: the frame that DECODE.RTUTCP's four checks accept decodes to its unit identifier, its function code, the bytes between
these and the trailer, and the trailer. -/
theorem decodeRtuTcp_frame_accepted {cfg : Config} {B : List Byte} (hn : 10 ≤ B.length) (hfc : fcValid (byteAt B 7) = true)
    (hcrc : cfg.checkCrc = true → crc16 ((B.drop 6).take (B.length - 8)) = le16 B (B.length - 2))
    (hlen : cfg.strictLength = true → (be16 B 4).toNat = B.length - 6) :
    decodeRtuTcp cfg B = .ok ⟨byteAt B 6, byteAt B 7, bytesFromTo B 8 (B.length - 2), some (le16 B (B.length - 2))⟩ := by
  rw [decodeRtuTcp_eq_checks, bytesFromTo_header_trailer, if_neg (Nat.not_lt.2 hn), if_neg (not_not.2 (fcValid_iff.1 hfc)),
    if_neg fun ⟨hc, hne⟩ => hne (hcrc hc), if_neg fun ⟨hs, hne⟩ => hne (hlen hs)]

/-- Settles O9: each error from when it is reported, success from the four checks. -/
theorem rtuTcpResult : Obligations.RtuTcpResult := by
  unfold Obligations.RtuTcpResult
  intro cfg B
  obtain ⟨hlen, hfc, hcrc⟩ := decodeRtuTcp_errors cfg B
  refine ⟨fun hn => hlen.2 (.inl hn), fun hn hbad => hfc.2 ⟨hn, hbad⟩, fun hn hgood hc hne => hcrc.2 ⟨hn, hgood, hc, hne⟩,
    fun _ hgood heq hs hne => hlen.2 (.inr ⟨hgood, heq, hs, hne⟩), fun hn hgood heq hcount => ?_⟩
  refine ⟨bytesFromTo B 8 (B.length - 2), ?_, fun k hk => ?_, decodeRtuTcp_frame_accepted hn hgood heq hcount⟩
  · rw [bytesFromTo_length]
    omega
  · rw [getElem?_bytesFromTo, if_pos (by omega)]

/-- Settles O11: the inner RTU decode is of the bytes from offset 6 to the end, and without STRICT_LENGTH its answer stands. -/
theorem rtuTcpIsRtuOfTail : Obligations.RtuTcpIsRtuOfTail := by
  unfold Obligations.RtuTcpIsRtuOfTail
  intro cfg B hs hn
  calc decodeRtuTcp cfg B = decodeRtu cfg (bytesFromTo B 6 B.length) := decodeRtuTcp_of_not_strict hs hn
    _ = decodeRtu cfg (B.drop 6) := by rw [bytesFromTo_to_end]

/-- Settles O20: the registers show the decode of the frame, and for DECODE.RTUTCP that is its checks in their order. -/
theorem rtuTcpCommandResult : Obligations.RtuTcpCommandResult := by
  unfold Obligations.RtuTcpCommandResult
  intro s hs
  obtain ⟨t, B, hexec, hsees, hshows⟩ := exec_decoderStep_shows .decodeRtuTcp hs
  refine ⟨t, B, hexec, hsees, ?_⟩
  rw [← decodeRtuTcp_eq_checks]
  exact hshows

end Sys2Proof.Machine
end

section
/-! PROOF. That instances share no state and behave alike, and what a refused access does; with these O34, O35, O51, O52 and O53
(spec/60_exceptions.md). -/

namespace Sys2Proof.Machine

/-! ### An event at one place leaves the others (R67, R135) -/

/-- From `s` to `t`, no instance but the one at `p` changes. -/
structure State.IsolatedAt (p : Place) (s t : State) : Prop where
  followed : p ≠ .focus → t.inst = s.inst
  others   : ∀ j, p ≠ .peer j → t.peers[j]? = s.peers[j]?

namespace State.IsolatedAt

variable {s t : State}

theorem peers_eq (h : s.IsolatedAt .focus t) : t.peers = s.peers := List.ext_getElem? fun j => h.others j (by simp)

theorem peer_eq {k : Nat} (h : s.IsolatedAt (.peer k) t) :
    t.inst = s.inst ∧ ∀ j, j ≠ k → t.peers[j]? = s.peers[j]? :=
  ⟨h.followed (by simp), fun j hj => h.others j (by simpa using hj.symm)⟩

end State.IsolatedAt

/-- An operation that leaves the other instances of its state, carried out at a place, leaves the instances of every other place. -/
theorem atPlace_isolatedAt {f : State → State × Option Word} (hf : ∀ u, (f u).1.peers = u.peers) (p : Place) (s : State) :
    s.IsolatedAt p (s.atPlace p f).1 := by
  cases p with
  | focus => exact ⟨fun h => absurd rfl h, fun j _ => by rw [State.atPlace, hf]⟩
  | nowhere => exact ⟨fun _ => rfl, fun _ _ => rfl⟩
  | peer k =>
    simp only [State.atPlace]
    split
    · exact ⟨fun _ => rfl, fun _ _ => rfl⟩
    · exact ⟨fun _ => rfl, fun j hj => List.getElem?_set_ne (by simpa using hj)⟩

theorem decoderStep_peers (s : State) : (decoderStep s).peers = s.peers := by
  cases hb : s.inst.busy with
  | true => rw [decoderStep_busy hb]
  | false => rw [decoderStep_idle hb]

theorem startCommand_peers (v : Variant) (s : State) : (s.startCommand v).peers = s.peers := by
  obtain ⟨-, he⟩ | ⟨-, he⟩ := startCommand_cases v s <;> rw [he]
  rfl

/-- A line's reset or bus access acts at the place of its address alone. -/
theorem hostLine_isolatedAt {l : HostLine} {s : State} {p : Place} (h : s.place (opAddr l.op) = p) (hp : p ≠ .nowhere) :
    s.IsolatedAt p (hostLine l s) := by
  obtain ⟨base, hop, hl⟩ | ⟨a, -, haddr, hl⟩ := hostLine_cases l s <;> rw [hl]
  · obtain rfl : s.place base = p := by rwa [hop] at h
    exact atPlace_isolatedAt (fun _ => rfl) _ s
  · obtain rfl : s.landing l.agent a.addr = p := landing_of_place (haddr ▸ h) hp
    obtain ⟨hinst, hpeers⟩ := atPlace_isolatedAt (localAccess_peers l.agent a) (s.landing l.agent a.addr) s
    exact ⟨hinst, hpeers⟩

/-- R60: the step of a line, for all instances but the one that the line acts on, is an event passed. -/
theorem step_line_isolatedAt {s : State} {l : HostLine} {rest : List HostLine} {p : Place} (hn : s.nextDecoder = none)
    (hp : s.program = l :: rest) (h : s.place (opAddr l.op) = p) (hne : p ≠ .nowhere) :
    ∃ t, step s = .next t ∧ s.tick.IsolatedAt p t := by
  obtain ⟨hinst, hpeers⟩ := hostLine_isolatedAt (s := s.beginLine l rest) ((place_beginLine ..).trans h) hne
  exact ⟨_, step_of_program_cons hn hp, hinst, hpeers⟩

/-- R95: a decoder step, for all instances but its own, is an event passed. -/
theorem step_decoder_isolatedAt {s : State} {p : Place} (h : s.nextDecoder = some p) :
    ∃ t, step s = .next t ∧ s.tick.IsolatedAt p t :=
  ⟨_, step_of_nextDecoder_some h, atPlace_isolatedAt (fun u => decoderStep_peers u) p s.tick⟩

/-- Settles O51: a command acts on the followed instance, and a step's event on the instance at one place. -/
theorem instancesAreIsolated : Obligations.InstancesAreIsolated := by
  unfold Obligations.InstancesAreIsolated
  refine ⟨fun i s => ⟨_, exec_eq i s, startCommand_peers _ s⟩, fun s l rest hn hp => ⟨fun h => ?_, fun k h => ?_⟩,
    fun s h => ?_, fun s k h => ?_⟩
  · obtain ⟨t, ht, hiso⟩ := step_line_isolatedAt hn hp h (by simp)
    exact ⟨t, ht, hiso.peers_eq⟩
  · obtain ⟨t, ht, hiso⟩ := step_line_isolatedAt hn hp h (by simp)
    exact ⟨t, ht, hiso.peer_eq⟩
  · obtain ⟨t, ht, hiso⟩ := step_decoder_isolatedAt h
    exact ⟨t, ht, hiso.peers_eq⟩
  · obtain ⟨t, ht, hiso⟩ := step_decoder_isolatedAt h
    exact ⟨t, ht, hiso.peer_eq⟩

/-! ### What happens at another instance (R135) -/

theorem beginLine_peer {s : State} {k : Nat} {p : Instance} (hk : s.peers[k]? = some p) (l : HostLine) (rest : List HostLine) :
    (s.beginLine l rest).peers[k]? = some p.tick := by
  simp [hk]

/-- Settles O52: a bus access in another instance's window is that instance's host access, also in the state in which a line is begun. -/
theorem peersBehaveAlike : Obligations.PeersBehaveAlike := by
  unfold Obligations.PeersBehaveAlike
  refine ⟨fun s agent a k p hplace hk => busAccess_peer hplace hk, fun s l rest a k p hn hp ha hplace hk => ?_⟩
  have hbus := busAccess_peer (agent := l.agent) (s := s.beginLine l rest) ((place_beginLine ..).trans hplace)
    (beginLine_peer hk l rest)
  rw [step_of_program_cons hn hp, hostLine_of_opNow ha, hbus]
  rfl

/-- Only an instance with a decode pending has a decoder step due (R95). -/
theorem nextDecoder_peer_busy {s : State} {k : Nat} {p : Instance} (h : s.nextDecoder = some (.peer k))
    (hk : s.peers[k]? = some p) : p.busy = true := by
  obtain ⟨-, hn⟩ | ⟨-, j, q, hq, hdue, hn⟩ | ⟨-, hn⟩ := nextDecoder_cases s <;> rw [hn] at h <;> cases h
  obtain rfl : q = p := Option.some.inj (hq.symm.trans hk)
  exact (decoderDue_iff.1 hdue).1

/-- R138: a reset of the window at an address of another instance resets that one. -/
theorem resetAt_peer {s : State} {base k : Nat} {p : Instance} (h : s.place base = .peer k) (hk : s.peers[k]? = some p) :
    s.resetAt base = { s with peers := s.peers.set k p.hardReset } := by
  simp only [State.resetAt, h, State.atPlace, hk]
  rfl

theorem hostLine_of_reset {l : HostLine} {base : Nat} (h : l.op = .reset base) (s : State) : hostLine l s = s.resetAt base := by
  rw [hostLine, h]

/-- Settles O53, from the step of another instance's decoder and the reset at its place. -/
theorem peerEvents : Obligations.PeerEvents := by
  unfold Obligations.PeerEvents
  refine ⟨fun s k p h hk => ?_, fun s l rest base k p hn hp hop hplace hk => ?_⟩
  · have hb := nextDecoder_peer_busy h hk
    refine ⟨hb, ?_⟩
    rw [step_decoder_peer h hk hb, decoderStep_busy (s := { s.tick with inst := p.tick }) hb]
    rfl
  · rw [step_of_program_cons hn hp, hostLine_of_reset hop,
      resetAt_peer ((place_beginLine ..).trans hplace) (beginLine_peer hk l rest)]
    rfl

/-! ### In which order broken rules are reported (R127) -/

section
variable {s : State} {w : Word}

/-- R47 to R50: an access that names no location is refused for that. -/
theorem blockAccess_of_targetOf_error {a : Access} {off : Nat} {r : Refusal} (h : targetOf s.inst.cfg.maxLen off a.width = .error r) :
    blockAccess a off s = .refused r := by
  simp only [blockAccess, h]

/-- R52, R53: every location but CMD, IN_LEN and IN_BUF is read-only. -/
theorem writeTarget_readOnly {t : Target} (hcmd : t ≠ .reg .cmd) (hlen : t ≠ .reg .inLen) (hbuf : ∀ i, t ≠ .inBuf i) :
    writeTarget t w s = .refused .readOnlyWrite := by
  cases t with
  | inBuf i => exact absurd rfl (hbuf i)
  | dataBuf i => rfl
  | reg r =>
    cases r with
    | cmd => exact absurd rfl hcmd
    | inLen => exact absurd rfl hlen
    | _ => rfl

/-- R142: while a decode is pending, a write to CMD, IN_LEN or IN_BUF is the fault. -/
theorem settle_writeTarget_whileBusy {t : Target} (ht : t = .reg .cmd ∨ t = .reg .inLen ∨ ∃ i, t = .inBuf i)
    (h : s.inst.busy = true) : settle s (writeTarget t w s) = (s.recordFault .hostWriteWhileBusy, none) := by
  obtain rfl | rfl | ⟨i, rfl⟩ := ht
  · exact settle_writeCmd_busy h
  · rw [writeTarget, writeInLen_busy h]
    rfl
  · rw [writeTarget, writeInBuf_busy h]
    rfl

/-- R70: the commands are the words below 3. -/
theorem decode_error_of_le (h : 3 ≤ w.toNat) : decode w = .error .reservedCommand := by
  cases hd : decode w with
  | error e => rfl
  | ok i =>
    obtain rfl := (decodeEncodeAgree w i).1 hd
    cases i <;> exact absurd h (by decide)

/-- R27: a word above MAX_LEN has a reserved bit set or a length above MAX_LEN. -/
theorem lengthOutOfRange_of_lt {m : Nat} (h : m < w.toNat) :
    w.extractLsb' 13 19 ≠ 0 ∨ m < (w.extractLsb' 0 13).toNat := by
  refine or_iff_not_imp_left.2 fun hres => ?_
  have hhigh : (w.extractLsb' 13 19).toNat = 0 := by rw [not_not.1 hres]; rfl
  rw [BitVec.extractLsb'_toNat, Nat.shiftRight_eq_div_pow] at hhigh
  rw [BitVec.extractLsb'_toNat, Nat.shiftRight_zero]
  have := w.isLt
  omega

end

/-- Settles O34, place by place of R127's order. -/
theorem reportOrder : Obligations.ReportOrder := by
  unfold Obligations.ReportOrder
  intro wd addr off w s
  refine ⟨fun r ht => ⟨blockAccess_of_targetOf_error ht, blockAccess_of_targetOf_error ht⟩, fun t ht hcmd hlen hbuf => ?_,
    fun t ht hloc hb => ?_, fun ht hb hw => ?_, fun ht hb _ hw => ?_⟩ <;> rw [blockAccess_write ht]
  · exact writeTarget_readOnly hcmd hlen hbuf
  · exact settle_writeTarget_whileBusy hloc hb
  · exact (writeCmd_of_decode_error (decode_error_of_le hw)).trans (if_neg (by simp [hb]))
  · exact writeInLen_refused hb (lengthOutOfRange_of_lt hw)

/-! ### What a refused access does (R67, R129) -/

/-- What a write is refused for does not depend on the note of the host. -/
theorem writeTarget_refused_hostedBy {t : Target} {w : Word} {s : State} {r : Refusal} (h : writeTarget t w s = .refused r)
    (agent : Nat) : writeTarget t w (s.hostedBy agent) = .refused r := by
  cases t with
  | dataBuf i => exact h
  | inBuf i =>
    rw [writeTarget, writeInBuf] at h
    split at h <;> cases h
  | reg q =>
    cases q with
    | cmd =>
      rw [writeTarget] at h ⊢
      cases hd : decode w with
      | ok i => rw [writeCmd_of_decode_ok hd] at h; cases h
      | error e => rw [writeCmd_of_decode_error hd] at h ⊢; exact h
    | inLen =>
      rw [writeTarget, writeInLen] at h
      split at h
      · cases h
      · next hb =>
        split at h
        · next hw =>
          cases h
          exact writeInLen_refused (s := s.hostedBy agent) (Bool.eq_false_iff.2 hb) hw
        · cases h
    | _ => exact h

/-- R67: an instance that has a host does not take another. -/
theorem Instance.claim_of_owner {x : Instance} {b : Nat} (h : x.owner = some b) (agent : Nat) : x.claim agent = x := by
  cases x
  cases h
  rfl

/-- R67: an access by another agent than the instance's host is refused. -/
theorem hostAccess_of_other {agent b : Nat} {s : State} (h : s.inst.owner = some b) (hne : b ≠ agent) (a : Access) (off : Nat) :
    hostAccess agent a off s = (s.recordRefusal .multipleHosts, none) := by
  have hclaim : s.onInst (Instance.claim agent) = s := by rw [State.onInst, Instance.claim_of_owner h]
  rw [hostAccess, hclaim, accessVerdict, if_neg (by simpa [h] using hne)]
  rfl

/-- Settles O35: the verdict on the access is a refusal, and settling one sets REFUSED. -/
theorem refusalSetsRefused : Obligations.RefusalSetsRefused := by
  unfold Obligations.RefusalSetsRefused
  refine fun agent off a s => ⟨fun hadm r ht => ?_, ?_, fun b hb hne => hostAccess_of_other hb hne a off⟩
  · rw [hostAccess_of_admits hadm, blockAccess_of_targetOf_error (s := s.hostedBy agent) ht]
    rfl
  · rintro hadm wd addr w t r rfl ht hw
    rw [hostAccess_write hadm ht, writeTarget_refused_hostedBy hw]
    rfl

end Sys2Proof.Machine
end

section
/-! PROOF. The end of a run and of a pending decode, what a write to a busy instance does, the initial state, and the step of a reset:
O17, O33, O38, O43, O54 and O55 (spec/70_reset_and_hazards.md). -/

namespace Sys2Proof.Machine

/-! ### What a line does to the followed instance (R60, R147) -/

/-- A line of the host program leaves the followed instance, unless it acts there: then it is the instance's reset or a bus access. -/
theorem hostLine_inst_cases (l : HostLine) (s : State) :
    (hostLine l s).inst = s.inst
    ∨ s.landing l.agent (opAddr l.op) = .focus
      ∧ ((hostLine l s).inst = s.inst.hardReset ∨ ∃ a, (hostLine l s).inst = (localAccess l.agent a s).1.inst) := by
  obtain ⟨base, hop, hl⟩ | ⟨a, -, haddr, hl⟩ := hostLine_cases l s <;> rw [hl]
  · obtain ⟨hi | ⟨hp, hi⟩, -⟩ := atPlace_instances (p := s.place base) (s := s) (f := fun t => (t.hardReset, none)) fun _ => rfl
    · exact .inl hi
    · exact .inr ⟨by rw [hop]; exact landing_of_place hp (by simp), .inl hi⟩
  · obtain ⟨hi | ⟨hp, hi⟩, -⟩ := atPlace_instances (p := s.landing l.agent a.addr) (s := s) (localAccess_peers l.agent a)
    · exact .inl hi
    · exact .inr ⟨haddr ▸ hp, .inr ⟨a, hi⟩⟩

/-! ### A pending decode ends (R145) -/

/-- While a decode is pending, no access changes how far its step is. -/
theorem AccessEffect.delay_of_busy {x y : Instance} (h : AccessEffect x y) (hx : x.busy = true) : y.delay = x.delay := by
  cases h with
  | command v d n hb => simp [hx] at hb
  | _ => rfl

theorem localAccess_delay_of_busy {s : State} (h : s.inst.busy = true) (agent : Nat) (a : Access) :
    (localAccess agent a s).1.inst.delay = s.inst.delay := by
  obtain ⟨-, he⟩ | ⟨-, he⟩ := localAccess_cases agent a s <;> rw [he]
  · exact (hostAccess_effect ..).1.delay_of_busy h
  · rfl

/-- A line that does not end the pending decode by a reset leaves its delay. -/
theorem hostLine_delay_of_busy {l : HostLine} {s : State} (hs : s.inst.busy = true) (ht : (hostLine l s).inst.busy = true) :
    (hostLine l s).inst.delay = s.inst.delay := by
  obtain hi | ⟨-, hi | ⟨a, hi⟩⟩ := hostLine_inst_cases l s
  · rw [hi]
  · simp [hi] at ht
  · rw [hi, localAccess_delay_of_busy hs]

/-- Each step after which the decode is still pending brings its decoder step nearer. -/
theorem step_delay_lt {s t : State} (h : step s = .next t) (hs : s.inst.busy = true) (ht : t.inst.busy = true) :
    t.inst.delay < s.inst.delay := by
  have nearer : ¬decoderDue s.program.isEmpty s.inst = true → s.inst.delay - 1 < s.inst.delay := fun hnot =>
    Nat.sub_one_lt fun h0 => hnot (decoderDue_iff.2 ⟨hs, .inr h0⟩)
  obtain ⟨-, hn⟩ | ⟨hnot, k, p, hk, hdue, hn⟩ | ⟨hnot, hn⟩ := nextDecoder_cases s
  · cases (step_decoder_focus hn).symm.trans h
    simp [decoderStep_inst_busy] at ht
  · cases (step_decoder_peer hn hk (decoderDue_iff.1 hdue).1).symm.trans h
    exact nearer hnot
  · cases hp : s.program with
    | nil => exact absurd (decoderDue_iff.2 ⟨hs, .inl (by rw [hp]; rfl)⟩) hnot
    | cons l rest =>
      cases (step_of_program_cons hn hp).symm.trans h
      exact hostLine_delay_of_busy (s := s.beginLine l rest) hs ht ▸ nearer hnot

/-- Settles O55, by induction on the delay, which falls with each step that leaves BUSY 1. -/
theorem pendingDecodeEnds : Obligations.PendingDecodeEnds := by
  unfold Obligations.PendingDecodeEnds
  intro s hs
  induction hm : s.inst.delay using Nat.strong_induction_on generalizing s with
  | _ m ih =>
    obtain ⟨u, hu⟩ := stepAlwaysAnswers s
    have hrun := run_succ (M := Sys2Proof.core) hu
    cases hb : u.inst.busy with
    | false => exact ⟨1, u, by omega, hrun 0, hb⟩
    | true =>
      have hlt := step_delay_lt hu hs hb
      obtain ⟨k, t, hk, ht, hidle⟩ := ih u.inst.delay (hm ▸ hlt) u hb rfl
      exact ⟨k + 1, t, by omega, (hrun k).trans ht, hidle⟩

/-! ### The end of a run (R147) -/

theorem concerns_eq_false {l : HostLine} {s : State} :
    s.concerns l = false ↔ s.inst.owner ≠ some l.agent ∧ s.landing l.agent (opAddr l.op) ≠ .focus := by
  simp [State.concerns]

/-- Once a run has ended, a step is no event at the followed instance: at most one passes elsewhere. -/
theorem step_inst_of_ended {s t : State} (hs : s.ended) (h : step s = .next t) : t.inst = s.inst ∨ t.inst = s.inst.tick := by
  obtain ⟨hlines, hidle⟩ := hs
  obtain ⟨hdue, -⟩ | ⟨-, k, p, hk, hdue, hn⟩ | ⟨-, hn⟩ := nextDecoder_cases s
  · simp [decoderDue, hidle] at hdue
  · cases (step_decoder_peer hn hk (decoderDue_iff.1 hdue).1).symm.trans h
    exact .inr rfl
  · cases hp : s.program with
    | nil =>
      cases (step_of_program_nil hn hp).symm.trans h
      exact .inl rfl
    | cons l rest =>
      cases (step_of_program_cons hn hp).symm.trans h
      obtain ⟨-, haway⟩ := concerns_eq_false.1 (hlines l (by simp [hp]))
      obtain hi | ⟨hfocus, -⟩ := hostLine_inst_cases l (s.beginLine l rest)
      · exact .inr hi
      · exact absurd ((landing_beginLine ..).symm.trans hfocus) haway

/-- Settles O54: a line at another instance does not concern the run, and after the end no event is at the followed instance. -/
theorem runEnds : Obligations.RunEnds := by
  unfold Obligations.RunEnds
  refine ⟨fun s ⟨hlines, hidle⟩ => ⟨hidle, fun l hl => (concerns_eq_false.1 (hlines l hl)).1⟩,
    fun s hp hidle => ⟨by simp [hp], hidle⟩, fun s l k howner hplace => ?_, fun s => Iff.rfl, fun s t hs h => ?_⟩
  · have hl : s.concerns l = false :=
      concerns_eq_false.2 ⟨howner, (landing_of_place hplace (by simp)).trans_ne (by simp)⟩
    exact and_congr_left' (List.forall_mem_cons.trans (and_iff_right hl))
  · obtain hi | hi := step_inst_of_ended hs h <;> rw [hi] <;> exact ⟨rfl, hs.2, rfl, rfl⟩

/-! ### Writes while a decode is pending (R128, R142) -/

/-- Settles O17: a command to a busy instance is the fault, which joins the set FAULTS. -/
theorem commandWhileBusy : Obligations.CommandWhileBusy := by
  unfold Obligations.CommandWhileBusy
  intro i s hs
  refine ⟨s.inst.faults.insert ⟨.hostWriteWhileBusy, s.line⟩, ?_, List.mem_insert_self, fun r => List.mem_insert_iff⟩
  rw [exec_eq, startCommand_busy hs]
  rfl

/-- R67: the instance's host is noted already. -/
theorem hostedBy_of_owner {agent : Nat} {s : State} (h : s.inst.owner = some agent) : s.hostedBy agent = s := by
  rw [State.hostedBy, ← h]

/-- Settles O33: over the bus, the host's write is that of the location, and while busy that is the fault. -/
theorem writeWhileBusyFaults : Obligations.WriteWhileBusyFaults := by
  unfold Obligations.WriteWhileBusyFaults
  intro agent wd addr off w t s hs howner ht hloc
  rw [hostAccess_write (.inr howner) ht, hostedBy_of_owner howner, settle_writeTarget_whileBusy hloc hs]
  rfl

/-! ### Reset and the initial state (R138, R140) -/

/-- Settles O38: the instance at the start of a run is as a reset leaves one, with no record. -/
theorem initialState : Obligations.InitialState := by
  unfold Obligations.InitialState
  exact ⟨fun r hr => (Instance.initial Config.default).hardReset_regWord hr, fun _ => rfl, fun _ => rfl, rfl, rfl, rfl, rfl⟩

/-- R138: a reset of the window at an address of the followed instance resets that one. -/
theorem resetAt_focus {s : State} {base : Nat} (h : s.place base = .focus) : s.resetAt base = s.hardReset := by
  rw [State.resetAt, h, State.atPlace]

/-- Settles O43: the line's reset is at the followed instance, and it clears the delay that the event has lowered. -/
theorem stepResets : Obligations.StepResets := by
  unfold Obligations.StepResets
  intro s l rest hn hp hop hc
  rw [step_of_program_cons hn hp, hostLine_of_reset hop, resetAt_focus ((place_beginLine ..).trans (place_focus.2 hc))]
  rfl

end Sys2Proof.Machine
end
